-- ==== Sys2Proof/Word.lean ====
section
/-! DEFINITION. The value types of the block (00_scope.md R3): bytes, 16-bit CRC values, arrays of a fixed length. -/

namespace Sys2Proof

/-- `u8` of 00_scope.md R3. -/
abbrev Byte := BitVec 8

/-- `u16` of 00_scope.md R3: the CRC register, the received CRC and the computed CRC. -/
abbrev U16 := BitVec 16

/-- An array of exactly `n` elements (`u8[24]`, `u8[28]`, …), held as a list paired with its length. -/
structure Arr (α : Type) (n : Nat) where
  toList : List α
  size : toList.length = n
  deriving DecidableEq, Repr

/-- An array of `n` bytes. -/
abbrev Bytes (n : Nat) := Arr Byte n

@[ext] theorem Arr.ext {α : Type} {n : Nat} {a b : Arr α n} (h : a.toList = b.toList) : a = b := by
  cases a; cases b; simp_all

@[simp] theorem Arr.length_toList {α : Type} {n : Nat} (a : Arr α n) : a.toList.length = n := a.size

end Sys2Proof
end

