-- ==== Sys2Proof/Machine/Bytes.lean ====
section
/-! DEFINITION. The operations on fixed-length arrays that 00_scope.md §5 ("Arrays") names: `a[i]`, `a[i] <- b`,
`a[i..j]`, `zeros(n)`. -/

namespace Sys2Proof

/-- `a[i]`: element `i`, counted from 0. -/
def Arr.get {α : Type} {n : Nat} (a : Arr α n) (i : Nat) (h : i < n := by decide) : α :=
  a.toList[i]'(by rw [a.size]; exact h)

/-- The array with element `i` replaced by `x`. -/
def Arr.set {α : Type} {n : Nat} (a : Arr α n) (i : Nat) (x : α) : Arr α n :=
  ⟨a.toList.set i x, by simp⟩

/-- `a[lo .. lo+len-1]`. -/
def Arr.slice {α : Type} {n : Nat} (a : Arr α n) (lo len : Nat) (h : lo + len ≤ n := by decide) : Arr α len :=
  ⟨(a.toList.drop lo).take len, by simp; omega⟩

/-- `zeros(n)`. -/
def Bytes.zeros (n : Nat) : Bytes n := ⟨List.replicate n 0x00, by simp⟩

/-- The array whose element `i` is `f i`. -/
def Bytes.generate (n : Nat) (f : Nat → Byte) : Bytes n := ⟨(List.range n).map f, by simp⟩

/-- A list as an array of `n` elements, where it has that length. -/
def Arr.ofList? {α : Type} (n : Nat) (l : List α) : Option (Arr α n) :=
  if h : l.length = n then some ⟨l, h⟩ else none

end Sys2Proof
end

