-- ==== Sys2Proof/Machine/Constants.lean ====
section
/-! DEFINITION. The fixed constants of 00_scope.md R4 and R7: "fixed points of interoperability", not parameters. -/

namespace Sys2Proof.Machine

/-- `START_BYTE`. -/
def startByte : Byte := 0xAA
/-- `END_BYTE`. -/
def endByte : Byte := 0x55
/-- `CRC_INIT`. -/
def crcInit : U16 := 0xFFFF
/-- `CRC_POLY`. -/
def crcPoly : U16 := 0x1021

/-- `ADDR_UNASSIGNED`. -/
def addrUnassigned : Byte := 0x00
/-- `ADDR_SERVER`. -/
def addrServer : Byte := 0x01
/-- `ADDR_BROADCAST`. -/
def addrBroadcast : Byte := 0xFE
/-- `ADDR_RESERVED`. -/
def addrReserved : Byte := 0xFF

end Sys2Proof.Machine
end

