-- ==== Sys2Proof/Syntax.lean ====
section
/-! DEFINITION. The syntax: the Frame value, the operands, and one constructor per row of spec/opcode_table.json. -/

namespace Sys2Proof

/-- The Frame value of 10_state.md R14. No relation between the fields is part of the type. -/
structure Frame where
  address : Byte
  serverCommand : Byte
  deviceCommand : Byte
  parameters : Bytes 20
  reserved : Byte
  deriving DecidableEq, Repr

/-- A frame whose fields are "wider integers" (41_codec.md R54): what a caller may offer to ENCODE, out-of-range
values included. -/
structure WideFrame where
  address : Nat
  serverCommand : Nat
  deviceCommand : Nat
  parameters : Arr Nat 20
  reserved : Nat
  deriving DecidableEq, Repr

/-- The result of CLASSIFY (43_classifier.md R68). -/
inductive CommandClass where
  | absent | core | serverCmd | deviceEvent
  deriving DecidableEq, Repr

/-- The five classes of an address (30_encoding.md R33). -/
inductive AddressClass where
  | unassigned | server | node | broadcast | reserved
  deriving DecidableEq, Repr

/-- When a byte is fed, relative to what the same Parser State is doing. Only `between` is a use the block gives a
meaning to; the others are the refused uses of 60_exceptions.md R88 points 3 and 4 (log entry 10). -/
inductive Moment where
  /-- Between operations. -/
  | between
  /-- While another agent's FEED on the same instance is running (10_state.md R18). -/
  | concurrent
  /-- From inside a collaborator callback of the same instance's RX_STEP (70_reset_and_hazards.md R104). -/
  | insideCallback
  /-- While this node's own `Tx` is in progress (70_reset_and_hazards.md R102). -/
  | duringTx
  deriving DecidableEq, Repr

/-- One constructor per row of spec/opcode_table.json, in the table's order. The first twenty-one are decode cases,
the last ten are the operations of the interface (30_encoding.md R43). -/
inductive Instr where
  | feedWaitStartStart
  | feedWaitStartSkip (b : Byte)
  | feedReadFrame (b : Byte)
  | feedReadCrcLow (b : Byte)
  | feedReadCrcHigh (b : Byte)
  | feedWaitEndAccept
  | feedWaitEndBadEnd (b : Byte)
  | feedWaitEndBadCrc
  | classAbsent
  | classCore (c : Byte)
  | classServerCmd (c : Byte)
  | classDeviceEvent (c : Byte)
  | corePing (m : Byte) (f : Frame)
  | coreReset (m : Byte) (f : Frame)
  | coreSetAddressValid (m : Byte) (f : Frame)
  | coreSetAddressInvalid (m : Byte) (f : Frame)
  | coreHello (m : Byte) (f : Frame)
  | coreAck (m : Byte) (f : Frame)
  | coreUnrecognized (m : Byte) (f : Frame)
  | routeForward (m : Byte) (f : Frame)
  | rxStepNotForMe (a : Byte)
  | crc16 (bytes : List Byte)
  | encodeFrame (f : WideFrame)
  | unpack (b : Bytes 24)
  | feed (at_ : Moment) (b : Byte)
  | classify (c : Byte)
  | isForMe (a m : Byte)
  | route (m : Byte) (f : Frame)
  | makeHello (m : Byte)
  | rxStep (at_ : Moment) (b : Byte)
  | reset (load : Option Byte)
  deriving DecidableEq, Repr

/-- Why a call record encodes no instruction. Each is raised by `decode` alone; a rejected record has no effect. -/
inductive DecodeError where
  /-- The record holds no byte. -/
  | emptyRecord
  /-- The second byte is no row number of the table. -/
  | unknownRow
  /-- The operands are fewer or more than the row's. -/
  | wrongLength
  /-- The row fixes the first byte and the record has another. -/
  | leadByte
  /-- An operand byte that selects among names (a moment, present or absent) selects none. -/
  | badSelector
  /-- A byte or a frame outside the row's own range (the row's encoding column). -/
  | outsideRow
  /-- A field value outside 0..255 offered to ENCODE (41_codec.md R54, 60_exceptions.md R88 point 2). -/
  | fieldOutOfRange
  deriving DecidableEq, Repr

end Sys2Proof
end

