-- ==== Sys2Proof/Machine/Classify.lean ====
section
/-! DEFINITION. The address and command classifier: the pure functions of 43_classifier.md. -/

namespace Sys2Proof.Machine

/-- CLASSIFY, 43_classifier.md R68. -/
def classify (c : Byte) : CommandClass :=
  if c = 0x00 then .absent
  else if 0x01 ≤ c ∧ c ≤ 0x3F then .core
  else if 0x40 ≤ c ∧ c ≤ 0x7F then .serverCmd
  else .deviceEvent

/-- The class of an address, 30_encoding.md R33. No operation branches on it: the block checks no address class
(41_codec.md R54, 30_encoding.md R41). -/
def addressClass (a : Byte) : AddressClass :=
  if a = addrUnassigned then .unassigned
  else if a = addrServer then .server
  else if a = addrBroadcast then .broadcast
  else if a = addrReserved then .reserved
  else .node

/-- IS_FOR_ME, 43_classifier.md R70. The third disjunct is implied by the first and is kept as the rule has it. -/
def isForMe (a m : Byte) : Bool :=
  a == m || a == addrBroadcast || (m == addrUnassigned && a == addrUnassigned)

/-- The set of addresses SET_ADDRESS does not adopt (44_router.md R78, 93_implementation_defined.md I6). -/
def rejectedAddress (a : Byte) : Bool := a == addrUnassigned || a == addrReserved

end Sys2Proof.Machine
end

