-- ==== Sys2Proof/WellFormed.lean ====
section
/-! DEFINITION. Which instruction terms are well formed: each operand lies in the range its row of the table gives it. -/

namespace Sys2Proof

/-- Every field value of a frame offered to ENCODE lies in 0..255 (41_codec.md R54). -/
def WideFrame.inRange (f : WideFrame) : Bool :=
  decide (f.address < 256) && decide (f.serverCommand < 256) && decide (f.deviceCommand < 256)
    && f.parameters.toList.all (fun p => decide (p < 256)) && decide (f.reserved < 256)

open Machine in
/-- Why a term is ill formed, or `none`. The ranges are those of the rows' encoding and source_fields columns; a
condition on the machine's state (a parser state, a CRC comparison, a `Cfg` code) is not one of them. -/
def problemOf (i : Instr) : Option DecodeError :=
  match i with
  | .feedWaitStartStart => none
  | .feedWaitStartSkip b => if b = startByte then some .outsideRow else none
  | .feedReadFrame _ => none
  | .feedReadCrcLow _ => none
  | .feedReadCrcHigh _ => none
  | .feedWaitEndAccept => none
  | .feedWaitEndBadEnd b => if b = endByte then some .outsideRow else none
  | .feedWaitEndBadCrc => none
  | .classAbsent => none
  | .classCore c => if classify c = .core then none else some .outsideRow
  | .classServerCmd c => if classify c = .serverCmd then none else some .outsideRow
  | .classDeviceEvent c => if classify c = .deviceEvent then none else some .outsideRow
  | .corePing _ f => if classify f.deviceCommand = .core then none else some .outsideRow
  | .coreReset _ f => if classify f.deviceCommand = .core then none else some .outsideRow
  | .coreSetAddressValid _ f =>
    if classify f.deviceCommand = .core ∧ rejectedAddress (f.parameters.get 0) = false then none else some .outsideRow
  | .coreSetAddressInvalid _ f =>
    if classify f.deviceCommand = .core ∧ rejectedAddress (f.parameters.get 0) = true then none else some .outsideRow
  | .coreHello _ f => if classify f.deviceCommand = .core then none else some .outsideRow
  | .coreAck _ f => if classify f.deviceCommand = .core then none else some .outsideRow
  | .coreUnrecognized _ f => if classify f.deviceCommand = .core then none else some .outsideRow
  | .routeForward _ f => if classify f.deviceCommand = .core then some .outsideRow else none
  | .rxStepNotForMe _ => none
  | .crc16 _ => none
  | .encodeFrame f => if f.inRange then none else some .fieldOutOfRange
  | .unpack _ => none
  | .feed _ _ => none
  | .classify _ => none
  | .isForMe _ _ => none
  | .route _ _ => none
  | .makeHello _ => none
  | .rxStep _ _ => none
  | .reset _ => none

/-- A term is well formed when nothing is wrong with it. -/
def WellFormed (i : Instr) : Bool := (problemOf i).isNone

end Sys2Proof
end

