-- ==== Sys2Proof/Decode.lean ====
section
/-! DEFINITION. Decoding call records, and the encoder. The block's operations are "chosen by which interface the
caller uses, not by a bit pattern" (30_encoding.md R43), so the record that carries a call is the model's own
(DESIGN CHOICE, log entry 2). A record is a list of bytes:

  lead byte, row number, operand bytes

The lead byte is the byte the table's row is about (the fed byte, the command byte, the deviceCommand, the address),
bit 0 the least significant. The row number is the row's place in spec/opcode_table.json, counted from 1. A record of
one byte is a bare table word and is read by the table's fixed bits alone (`bareRow`, log entry 2). -/

namespace Sys2Proof

open Machine

/-- The row's place in spec/opcode_table.json, counted from 1. -/
def rowNumber (i : Instr) : Byte :=
  match i with
  | .feedWaitStartStart => 1
  | .feedWaitStartSkip _ => 2
  | .feedReadFrame _ => 3
  | .feedReadCrcLow _ => 4
  | .feedReadCrcHigh _ => 5
  | .feedWaitEndAccept => 6
  | .feedWaitEndBadEnd _ => 7
  | .feedWaitEndBadCrc => 8
  | .classAbsent => 9
  | .classCore _ => 10
  | .classServerCmd _ => 11
  | .classDeviceEvent _ => 12
  | .corePing _ _ => 13
  | .coreReset _ _ => 14
  | .coreSetAddressValid _ _ => 15
  | .coreSetAddressInvalid _ _ => 16
  | .coreHello _ _ => 17
  | .coreAck _ _ => 18
  | .coreUnrecognized _ _ => 19
  | .routeForward _ _ => 20
  | .rxStepNotForMe _ => 21
  | .crc16 _ => 22
  | .encodeFrame _ => 23
  | .unpack _ => 24
  | .feed _ _ => 25
  | .classify _ => 26
  | .isForMe _ _ => 27
  | .route _ _ => 28
  | .makeHello _ => 29
  | .rxStep _ _ => 30
  | .reset _ => 31

/-- No operand byte may follow. -/
def noOperands (ops : List Byte) (i : Instr) : Except DecodeError Instr :=
  if ops = [] then .ok i else .error .wrongLength

/-- The row fixes its lead byte, and no operand byte may follow. -/
def fixedLead (want lead : Byte) (ops : List Byte) (i : Instr) : Except DecodeError Instr :=
  if lead = want then noOperands ops i else .error .leadByte

/-- Exactly one operand byte. -/
def oneOperand (ops : List Byte) (k : Byte → Except DecodeError Instr) : Except DecodeError Instr :=
  match ops with
  | [x] => k x
  | _ => .error .wrongLength

/-- The operands of a router row: `m`, then the frame's body without its deviceCommand, which is the lead byte:
address, serverCommand, parameters[0..19], reserved (30_encoding.md R31). -/
def frameOperands (d : Byte) (ops : List Byte) (k : Byte → Frame → Instr) : Except DecodeError Instr :=
  match ops with
  | m :: a :: s :: tail =>
    if h : tail.length = 21 then
      .ok (k m { address := a, serverCommand := s, deviceCommand := d,
                 parameters := ⟨tail.take 20, by simp [h]⟩, reserved := tail[20] })
    else .error .wrongLength
  | _ => .error .wrongLength

/-- Pairs of bytes, low byte first, as numbers. -/
def readPairs (l : List Byte) : Option (List Nat) :=
  match l with
  | [] => some []
  | [_] => none
  | lo :: hi :: rest => (readPairs rest).map (fun t => (lo.toNat + 256 * hi.toNat) :: t)

/-- The operand of ENCODE: the 24 body fields in the order of 30_encoding.md R31, two bytes each. -/
def wideOperand (ops : List Byte) : Except DecodeError Instr :=
  match readPairs ops with
  | some (a :: s :: d :: tail) =>
    if h : tail.length = 21 then
      .ok (.encodeFrame { address := a, serverCommand := s, deviceCommand := d,
                          parameters := ⟨tail.take 20, by simp [h]⟩, reserved := tail[20] })
    else .error .wrongLength
  | _ => .error .wrongLength

/-- A moment as an operand byte. -/
def momentByte (x : Moment) : Byte :=
  match x with
  | .between => 0
  | .concurrent => 1
  | .insideCallback => 2
  | .duringTx => 3

/-- A byte operation with the moment it is fed at. -/
def momentOperand (ops : List Byte) (k : Moment → Instr) : Except DecodeError Instr :=
  oneOperand ops fun x =>
    if x = 0 then .ok (k .between)
    else if x = 1 then .ok (k .concurrent)
    else if x = 2 then .ok (k .insideCallback)
    else if x = 3 then .ok (k .duringTx)
    else .error .badSelector

/-- The `loadAddress` result of a RESET: 1 says a value is present (the lead byte), 0 says "absent". -/
def loadOperand (lead : Byte) (ops : List Byte) : Except DecodeError Instr :=
  oneOperand ops fun x =>
    if x = 1 then .ok (.reset (some lead))
    else if x = 0 then (if lead = 0 then .ok (.reset none) else .error .leadByte)
    else .error .badSelector

/-- A bare table word: the most specific row whose fixed bits match it (masks 0xFF before 0xC0 before 0x80). The rows
FEED.WaitEnd.badCrc and CORE.UNRECOGNIZED have the fixed bits of an earlier row and differ from it by a condition only,
so they are reached by their row numbers (DESIGN CHOICE, log entry 2). -/
def bareRow (w : Byte) : Instr :=
  if w = startByte then .feedWaitStartStart
  else if w = endByte then .feedWaitEndAccept
  else match classify w with
    | .absent => .classAbsent
    | .core => .classCore w
    | .serverCmd => .classServerCmd w
    | .deviceEvent => .classDeviceEvent w

/-- A record whose row number is given. -/
def parseRow (lead row : Byte) (ops : List Byte) : Except DecodeError Instr :=
  match row.toNat with
  | 1 => fixedLead startByte lead ops .feedWaitStartStart
  | 2 => noOperands ops (.feedWaitStartSkip lead)
  | 3 => noOperands ops (.feedReadFrame lead)
  | 4 => noOperands ops (.feedReadCrcLow lead)
  | 5 => noOperands ops (.feedReadCrcHigh lead)
  | 6 => fixedLead endByte lead ops .feedWaitEndAccept
  | 7 => noOperands ops (.feedWaitEndBadEnd lead)
  | 8 => fixedLead endByte lead ops .feedWaitEndBadCrc
  | 9 => fixedLead 0x00 lead ops .classAbsent
  | 10 => noOperands ops (.classCore lead)
  | 11 => noOperands ops (.classServerCmd lead)
  | 12 => noOperands ops (.classDeviceEvent lead)
  | 13 => frameOperands lead ops .corePing
  | 14 => frameOperands lead ops .coreReset
  | 15 => frameOperands lead ops .coreSetAddressValid
  | 16 => frameOperands lead ops .coreSetAddressInvalid
  | 17 => frameOperands lead ops .coreHello
  | 18 => frameOperands lead ops .coreAck
  | 19 => frameOperands lead ops .coreUnrecognized
  | 20 => frameOperands lead ops .routeForward
  | 21 => noOperands ops (.rxStepNotForMe lead)
  | 22 => if lead = 0 then .ok (.crc16 ops) else .error .leadByte
  | 23 => if lead = 0 then wideOperand ops else .error .leadByte
  | 24 =>
    if lead = 0 then
      match Arr.ofList? 24 ops with
      | some b => .ok (.unpack b)
      | none => .error .wrongLength
    else .error .leadByte
  | 25 => momentOperand ops (fun x => .feed x lead)
  | 26 => noOperands ops (.classify lead)
  | 27 => oneOperand ops (fun m => .ok (.isForMe lead m))
  | 28 => frameOperands lead ops .route
  | 29 => noOperands ops (.makeHello lead)
  | 30 => momentOperand ops (fun x => .rxStep x lead)
  | 31 => loadOperand lead ops
  | _ => .error .unknownRow

/-- A record as a term, its operands' ranges not yet checked. -/
def parseRecord (r : List Byte) : Except DecodeError Instr :=
  match r with
  | [] => .error .emptyRecord
  | [w] => .ok (bareRow w)
  | lead :: row :: ops => parseRow lead row ops

/-- The decoder: total on every list of bytes. It answers a well-formed instruction or rejects by name. -/
def decode (r : List Byte) : Except DecodeError Instr :=
  match parseRecord r with
  | .error e => .error e
  | .ok i =>
    match problemOf i with
    | some e => .error e
    | none => .ok i

/-- The operand bytes of a router row. -/
def frameBytes (m : Byte) (f : Frame) : List Byte :=
  m :: f.address :: f.serverCommand :: (f.parameters.toList ++ [f.reserved])

/-- Numbers as pairs of bytes, low byte first. -/
def writePairs (l : List Nat) : List Byte :=
  match l with
  | [] => []
  | x :: rest => BitVec.ofNat 8 x :: BitVec.ofNat 8 (x / 256) :: writePairs rest

/-- The operand bytes of ENCODE. -/
def wideBytes (f : WideFrame) : List Byte :=
  writePairs (f.address :: f.serverCommand :: f.deviceCommand :: (f.parameters.toList ++ [f.reserved]))

/-- The lead byte and the operand bytes of an instruction's record. -/
def recordParts (i : Instr) : Byte × List Byte :=
  match i with
  | .feedWaitStartStart => (startByte, [])
  | .feedWaitStartSkip b => (b, [])
  | .feedReadFrame b => (b, [])
  | .feedReadCrcLow b => (b, [])
  | .feedReadCrcHigh b => (b, [])
  | .feedWaitEndAccept => (endByte, [])
  | .feedWaitEndBadEnd b => (b, [])
  | .feedWaitEndBadCrc => (endByte, [])
  | .classAbsent => (0x00, [])
  | .classCore c => (c, [])
  | .classServerCmd c => (c, [])
  | .classDeviceEvent c => (c, [])
  | .corePing m f => (f.deviceCommand, frameBytes m f)
  | .coreReset m f => (f.deviceCommand, frameBytes m f)
  | .coreSetAddressValid m f => (f.deviceCommand, frameBytes m f)
  | .coreSetAddressInvalid m f => (f.deviceCommand, frameBytes m f)
  | .coreHello m f => (f.deviceCommand, frameBytes m f)
  | .coreAck m f => (f.deviceCommand, frameBytes m f)
  | .coreUnrecognized m f => (f.deviceCommand, frameBytes m f)
  | .routeForward m f => (f.deviceCommand, frameBytes m f)
  | .rxStepNotForMe a => (a, [])
  | .crc16 bytes => (0x00, bytes)
  | .encodeFrame f => (0x00, wideBytes f)
  | .unpack b => (0x00, b.toList)
  | .feed x b => (b, [momentByte x])
  | .classify c => (c, [])
  | .isForMe a m => (a, [m])
  | .route m f => (f.deviceCommand, frameBytes m f)
  | .makeHello m => (m, [])
  | .rxStep x b => (b, [momentByte x])
  | .reset load => (load.getD 0x00, [if load.isSome then 0x01 else 0x00])

/-- The encoder: the record of a well-formed instruction. -/
def encode (i : Instr) : List Byte :=
  (recordParts i).1 :: rowNumber i :: (recordParts i).2

/-- The `nbits / 8` bytes of a table word, bits 7..0 first. -/
def tableBytes (nbits w : Nat) : List Byte :=
  (List.range ((nbits + 7) / 8)).map (fun k => BitVec.ofNat 8 (w >>> (8 * k)))

/-- What the decoder reads from an instruction whose bits are `w`, numbered as spec/opcode_table.json numbers them. -/
def decodeTableWord (nbits w : Nat) : Option Instr :=
  match decode (tableBytes nbits w) with
  | .ok i => some i
  | .error _ => none

end Sys2Proof
end

