-- ==== Sys2Proof/Machine/Crc.lean ====
section
/-! DEFINITION. The CRC-16 generator: the pure functions of 40_crc.md. -/

namespace Sys2Proof.Machine

/-- One of the eight bit steps of CRC_STEP: bit 15 is tested before the shift (40_crc.md R45). -/
def crcShift (c : U16) : U16 :=
  if c.getLsbD 15 then (c <<< 1) ^^^ crcPoly else c <<< 1

/-- CRC_STEP, 40_crc.md R45. -/
def crcStep (c : U16) (b : Byte) : U16 :=
  Nat.repeat crcShift 8 (c ^^^ (b.setWidth 16 <<< 8))

/-- CRC16, 40_crc.md R46. The one function for both directions (R48). -/
def crc16 (bytes : List Byte) : U16 :=
  bytes.foldl crcStep crcInit

/-- `zext_16(lo) | (zext_16(hi) << 8)`: the received CRC (20_memory.md R22). -/
def joinCrc (lo hi : Byte) : U16 :=
  lo.setWidth 16 ||| (hi.setWidth 16 <<< 8)

/-- `c[7:0]`. -/
def crcLow (c : U16) : Byte := c.extractLsb' 0 8

/-- `c[15:8]`. -/
def crcHigh (c : U16) : Byte := c.extractLsb' 8 8

end Sys2Proof.Machine
end

