-- ==== Sys2Proof/Machine/Codec.lean ====
section
/-! DEFINITION. The frame encoder and decoder: the pure functions of 41_codec.md. -/

namespace Sys2Proof.Machine

/-- `z(f)` of 41_codec.md R53: `f` with `reserved` set to 0x00. -/
def clearReserved (f : Frame) : Frame := { f with reserved := 0x00 }

/-- The 24 body bytes of a frame in wire order (30_encoding.md R31). -/
def bodyOf (f : Frame) : Bytes 24 :=
  ⟨[f.address, f.serverCommand, f.deviceCommand] ++ f.parameters.toList ++ [f.reserved], by simp⟩

/-- The 28 wire bytes around a body and two CRC bytes (30_encoding.md R30). -/
def wireOf (body : Bytes 24) (lo hi : Byte) : Bytes 28 :=
  ⟨[startByte] ++ body.toList ++ [lo, hi] ++ [endByte], by simp⟩

/-- ENCODE, 41_codec.md R50: `reserved` is written as 0x00 (R51), and the CRC covers exactly the body written
(40_crc.md R47). -/
def encodeFrame (f : Frame) : Bytes 28 :=
  let body := bodyOf (clearReserved f)
  let c := crc16 body.toList
  wireOf body (crcLow c) (crcHigh c)

/-- UNPACK, 41_codec.md R52: no field is validated, and `reserved` carries the received byte. -/
def unpack (b : Bytes 24) : Frame where
  address := b.get 0
  serverCommand := b.get 1
  deviceCommand := b.get 2
  parameters := b.slice 3 20
  reserved := b.get 23

end Sys2Proof.Machine
end

