-- ==== Sys2Proof/Config.lean ====
section
/-! DEFINITION. What the spec leaves open: the configuration record `Cfg` (00_scope.md R5), the node context
(R6, 10_state.md R19), the assignment a reset state is given, and the free values of the RESET operation. -/

namespace Sys2Proof

/-- `Cfg` of 00_scope.md R5: the numeric codes of the five core operations. Their values are OPEN, so `Cfg` is a
field of the state and every claim quantifies over it. -/
structure Cfg where
  cmdHello : Byte
  cmdAck : Byte
  cmdPing : Byte
  cmdReset : Byte
  cmdSetAddress : Byte
  deriving DecidableEq, Repr

/-- `Ctx` of 10_state.md R19: what the engine-level operations are told about the node. -/
structure Ctx where
  myAddress : Byte
  deviceType : Byte
  hwId : Bytes 6
  deriving DecidableEq, Repr

namespace Config

/-- DESIGN CHOICE (log entry 5): the codes of `State.reset`, the TEST-ONLY assignment T of 95_test_vectors.md.
They are not the hardware's. -/
def resetCfg : Cfg where
  cmdHello := 0x31
  cmdAck := 0x32
  cmdPing := 0x33
  cmdReset := 0x34
  cmdSetAddress := 0x35

/-- DESIGN CHOICE (log entry 5): the device type of `State.reset`, assignment T. -/
def resetDeviceType : Byte := 0x2C

/-- DESIGN CHOICE (log entry 5): the hardware identifier of `State.reset`, assignment T. -/
def resetHwId : Bytes 6 := ⟨[0xDE, 0xAD, 0xBE, 0xEF, 0x00, 0x01], rfl⟩

/-- FREE VALUE (log entry 8): byte `k` of `P.buf` after the `n`-th RESET operation (70_reset_and_hazards.md R98). -/
opaque freeBufByte (n k : Nat) : Byte

/-- FREE VALUE (log entry 8): `P.idx` after the `n`-th RESET operation, any value 0..24 (10_state.md R16). -/
opaque freeIdx (n : Nat) : Fin 25

/-- FREE VALUE (log entry 8): `P.rxCrc` after the `n`-th RESET operation. -/
opaque freeRxCrc (n : Nat) : U16

end Config

end Sys2Proof
end

