-- ==== Sys2Proof/Machine/State.lean ====
section
/-! DEFINITION. The state of the block (10_state.md), what a step returns to the outside (R19), and the ways a step
can end without a next state. -/

namespace Sys2Proof.Machine

/-- `P.st` of 10_state.md R10. -/
inductive ParserSt where
  | waitStart | readFrame | readCrcLow | readCrcHigh | waitEnd
  deriving DecidableEq, Repr

/-- The bound 10_state.md R11 puts on the fill index: in ReadFrame at most 23 body bytes are stored. -/
def indexFits (st : ParserSt) (idx : Fin 25) : Bool :=
  match st with
  | .readFrame => decide (idx.val < 24)
  | .waitStart => true
  | .readCrcLow => true
  | .readCrcHigh => true
  | .waitEnd => true

/-- The Parser State of 10_state.md R10: exactly the four fields, with the index bound of R11 (log entry 12). The rest
of R11 is `ParserState.Inv` in Safety.lean. -/
structure ParserState where
  /-- `P.st` -/
  st : ParserSt
  /-- `P.buf` -/
  buf : Bytes 24
  /-- `P.idx`, 0..24 -/
  idx : Fin 25
  /-- `P.rxCrc` -/
  rxCrc : U16
  fits : indexFits st idx = true
  deriving DecidableEq, Repr

/-- The closed event alphabet of 10_state.md R19. -/
inductive Event where
  | tx (w : Bytes 28)
  | appHandle (f : Frame)
  | pingRecognized (f : Frame)
  | hostResetRequest
  | saveAddress (a : Byte)
  | setMyAddress (a : Byte)
  deriving DecidableEq, Repr

/-- The value an operation returns beside its event list (the signatures of 10_state.md R19). -/
inductive Result where
  /-- RX_STEP, ROUTE and RESET return no value of their own. -/
  | done
  /-- FEED: `None` or `Some(f)`. -/
  | fed (r : Option Frame)
  /-- CRC16. -/
  | crc (c : U16)
  /-- ENCODE. -/
  | wire (w : Bytes 28)
  /-- UNPACK and MAKE_HELLO. -/
  | frame (f : Frame)
  /-- CLASSIFY. -/
  | cls (c : CommandClass)
  /-- IS_FOR_ME. -/
  | bool (b : Bool)
  deriving DecidableEq, Repr

/-- What one operation gives back: its value and its ordered list of events. -/
structure Output where
  result : Result
  events : List Event
  deriving DecidableEq, Repr

/-- The state: the Parser State (R10), the node-context register (R12), the instance's fixed inputs (00_scope.md R5,
R6), and three fields of the model's own: the calls waiting for a step (log entry 1), the outputs of the operations
completed so far (log entry 4), and the count of free values drawn (log entry 8). -/
structure State where
  /-- `P` -/
  P : ParserState
  /-- `N.myAddress`, one for each receive stream (DESIGN CHOICE, log entry 14) -/
  myAddress : Byte
  /-- `Cfg` -/
  cfg : Cfg
  /-- `DEVICE_TYPE` -/
  deviceType : Byte
  /-- `HW_ID` -/
  hwId : Bytes 6
  /-- the pending calls, oldest first, one record each -/
  calls : List (List Byte)
  /-- one output per completed operation, oldest first -/
  trace : List Output
  /-- how many RESET operations have drawn free values -/
  draws : Nat
  deriving DecidableEq, Repr

/-- There is no fault: "The block has no fault mechanism" (93_implementation_defined.md; 60_exceptions.md R87, R89). -/
inductive Fault where
  deriving DecidableEq, Repr

/-- The refusals: uses the block gives no meaning to. A refused operation is not a step. All are safe: they remove
runs and give none a value. -/
inductive Refusal where
  /-- Raised by `exec` alone, for an instruction without a meaning; no arm raises it. Safe. -/
  | notModelled (mnemonic : String)
  /-- Raised by `step` where the oldest pending record encodes no call. Safe. -/
  | undecodable (why : DecodeError)
  /-- Raised by the operations and rows that take a `Cfg` where it is ill formed (60_exceptions.md R88 point 1). Safe. -/
  | illFormedCfg
  /-- Raised by ENCODE for a field value outside 0..255 (R88 point 2, 41_codec.md R54). Safe. -/
  | fieldOutOfRange
  /-- Raised by FEED and RX_STEP: another feed of the same instance is running (R88 point 3, 10_state.md R18). Safe. -/
  | concurrentFeed
  /-- Raised by FEED and RX_STEP: fed from inside a collaborator callback (R88 point 3, R104). Safe. -/
  | reentrantFeed
  /-- Raised by FEED and RX_STEP: fed while the node's own `Tx` is in progress (R88 point 4, R102). Safe. -/
  | feedDuringTx
  /-- Raised by the decode-case rows where the row's condition does not hold, so that the block would never select
  the row there (log entry 9). Safe. -/
  | rowNotSelected (mnemonic : String)
  deriving DecidableEq, Repr

/-- The parser fields of `State.reset`: WaitStart (10_state.md R16); the three dead fields are zero
(DESIGN CHOICE, log entry 7). -/
def resetParser : ParserState where
  st := .waitStart
  buf := ⟨List.replicate 24 0x00, rfl⟩
  idx := 0
  rxCrc := 0x0000
  fits := rfl

/-- The state right after a RESET whose `loadAddress` answered "absent" (10_state.md R16, 70_reset_and_hazards.md R99;
log entry 6), of an instance configured with assignment T (log entry 5). -/
def State.reset : State where
  P := resetParser
  myAddress := 0x00
  cfg := Config.resetCfg
  deviceType := Config.resetDeviceType
  hwId := Config.resetHwId
  calls := []
  trace := []
  draws := 0

end Sys2Proof.Machine
end

