-- ==== Sys2Proof/Machine/Feed.lean ====
section
/-! DEFINITION. The stream parser: the pure transitions of 42_parser.md. Each takes the Parser State and one byte and
gives the new Parser State and `None` or `Some(f)`. -/

namespace Sys2Proof.Machine

/-- `P.st <- WaitStart`, the other fields kept. -/
def toWaitStart (P : ParserState) : ParserState :=
  { st := .waitStart, buf := P.buf, idx := P.idx, rxCrc := P.rxCrc, fits := rfl }

/-- WaitStart with the start byte, 42_parser.md R57: `P.buf` is not cleared. -/
def beginFrame (P : ParserState) : ParserState :=
  { st := .readFrame, buf := P.buf, idx := 0, rxCrc := 0x0000, fits := rfl }

/-- WaitStart, 42_parser.md R57. -/
def feedWaitStart (P : ParserState) (b : Byte) : ParserState × Option Frame :=
  if b = startByte then (beginFrame P, none) else (P, none)

/-- ReadFrame, 42_parser.md R58: every byte value is stored; the 24th makes the transition to ReadCrcLow. A parser in
ReadFrame holds at most 23 bytes (`ParserState.fits`), so "not below 24 after the increment" is "equal to 24". -/
def feedReadFrame (P : ParserState) (b : Byte) : ParserState × Option Frame :=
  if hlt : P.idx.val + 1 < 24 then
    ({ st := .readFrame, buf := P.buf.set P.idx.val b, idx := ⟨P.idx.val + 1, Nat.lt_succ_of_lt hlt⟩,
       rxCrc := P.rxCrc, fits := decide_eq_true hlt }, none)
  else
    ({ st := .readCrcLow, buf := P.buf.set P.idx.val b, idx := 24, rxCrc := P.rxCrc, fits := rfl }, none)

/-- ReadCrcLow, 42_parser.md R59. -/
def feedReadCrcLow (P : ParserState) (b : Byte) : ParserState × Option Frame :=
  ({ st := .readCrcHigh, buf := P.buf, idx := P.idx, rxCrc := b.setWidth 16, fits := rfl }, none)

/-- ReadCrcHigh, 42_parser.md R60: the high byte is OR-ed in. -/
def feedReadCrcHigh (P : ParserState) (b : Byte) : ParserState × Option Frame :=
  ({ st := .waitEnd, buf := P.buf, idx := P.idx, rxCrc := P.rxCrc ||| (b.setWidth 16 <<< 8), fits := rfl }, none)

/-- The comparison of WaitEnd, 42_parser.md R61: full u16 values, no residue (40_crc.md R49 point 3). -/
def crcMatches (P : ParserState) : Bool := crc16 P.buf.toList == P.rxCrc

/-- WaitEnd, success, 42_parser.md R61. -/
def feedAccept (P : ParserState) : ParserState × Option Frame := (toWaitStart P, some (unpack P.buf))

/-- WaitEnd, failure, 42_parser.md R62: the failing byte is consumed (R64) and nothing is reported (R66). -/
def feedDrop (P : ParserState) : ParserState × Option Frame := (toWaitStart P, none)

/-- WaitEnd, 42_parser.md R56. -/
def feedWaitEnd (P : ParserState) (b : Byte) : ParserState × Option Frame :=
  if b = endByte ∧ crcMatches P = true then feedAccept P else feedDrop P

/-- FEED, 42_parser.md R56: total on every state and every byte, exactly one transition. -/
def feed (P : ParserState) (b : Byte) : ParserState × Option Frame :=
  match P.st with
  | .waitStart => feedWaitStart P b
  | .readFrame => feedReadFrame P b
  | .readCrcLow => feedReadCrcLow P b
  | .readCrcHigh => feedReadCrcHigh P b
  | .waitEnd => feedWaitEnd P b

/-- A byte sequence fed in order: the Parser State it leaves and what each byte returned. -/
def feedAll (P : ParserState) (bytes : List Byte) : ParserState × List (Option Frame) :=
  match bytes with
  | [] => (P, [])
  | b :: rest =>
    let r := feed P b
    let t := feedAll r.1 rest
    (t.1, r.2 :: t.2)

end Sys2Proof.Machine
end

