-- ==== Sys2Proof/Machine/Operands.lean ====
section
/-! DEFINITION. The operand forms and their checks: a `Cfg`, a context, a frame offered to ENCODE, the moment a byte is
fed at, a `loadAddress` result. -/

namespace Sys2Proof

open Machine in
/-- `Cfg` is well formed: every code lies in 0x01..0x3F and the five are pairwise distinct (00_scope.md R5). -/
def Cfg.wf (c : Cfg) : Bool :=
  let codes := [c.cmdHello, c.cmdAck, c.cmdPing, c.cmdReset, c.cmdSetAddress]
  codes.all (fun x => decide (0x01 ≤ x) && decide (x ≤ 0x3F)) && decide codes.Nodup

/-- The byte is one of the five codes. -/
def Cfg.isCode (c : Cfg) (d : Byte) : Bool :=
  d == c.cmdPing || d == c.cmdReset || d == c.cmdSetAddress || d == c.cmdHello || d == c.cmdAck

/-- The frame a wide frame stands for; used only where every field is in range (41_codec.md R54: no truncation). -/
def WideFrame.narrow (f : WideFrame) : Frame where
  address := BitVec.ofNat 8 f.address
  serverCommand := BitVec.ofNat 8 f.serverCommand
  deviceCommand := BitVec.ofNat 8 f.deviceCommand
  parameters := ⟨f.parameters.toList.map (BitVec.ofNat 8), by simp⟩
  reserved := BitVec.ofNat 8 f.reserved

/-- A frame as a caller offers it to ENCODE. -/
def Frame.widen (f : Frame) : WideFrame where
  address := f.address.toNat
  serverCommand := f.serverCommand.toNat
  deviceCommand := f.deviceCommand.toNat
  parameters := ⟨f.parameters.toList.map BitVec.toNat, by simp⟩
  reserved := f.reserved.toNat

end Sys2Proof

namespace Sys2Proof.Machine

/-- The context an engine-level operation is called with: the address is its argument (10_state.md R12), the device
type and the hardware identifier are the instance's own (20_memory.md R29; log entry 11). -/
def State.ctx (s : State) (m : Byte) : Ctx where
  myAddress := m
  deviceType := s.deviceType
  hwId := s.hwId

/-- The refusal a moment earns, if any (60_exceptions.md R88 points 3 and 4). -/
def momentRefusal (x : Moment) : Option Refusal :=
  match x with
  | .between => none
  | .concurrent => some .concurrentFeed
  | .insideCallback => some .reentrantFeed
  | .duringTx => some .feedDuringTx

/-- `BOOT_ADDRESS`, 70_reset_and_hazards.md R99: the loaded value exactly, or 0x00 for "absent". -/
def bootAddress (load : Option Byte) : Byte := load.getD addrUnassigned

end Sys2Proof.Machine
end

