-- ==== Sys2Proof/Machine/Route.lean ====
section
/-! DEFINITION. The dispatch router, the identity frame and the receive step: the pure functions of 44_router.md. -/

namespace Sys2Proof.Machine

/-- The HELLO parameters of 30_encoding.md R37: `hwId` is included only when the sender is unassigned. -/
def helloParameters (ctx : Ctx) : Bytes 20 :=
  let id : Bytes 6 := if ctx.myAddress = addrUnassigned then ctx.hwId else Bytes.zeros 6
  ⟨[ctx.myAddress, ctx.deviceType] ++ id.toList ++ (Bytes.zeros 12).toList, by simp⟩

/-- MAKE_HELLO, 44_router.md R83. -/
def makeHello (cfg : Cfg) (ctx : Ctx) : Frame where
  address := addrServer
  serverCommand := 0x00
  deviceCommand := cfg.cmdHello
  parameters := helloParameters ctx
  reserved := 0x00

/-- PING, 44_router.md R75: the acknowledgement is the collaborator's. -/
def routePing (f : Frame) : List Event := [.pingRecognized f]

/-- RESET, 44_router.md R76: an event to the host, no state change. -/
def routeReset : List Event := [.hostResetRequest]

/-- SET_ADDRESS with a valid address, 44_router.md R77: adopt, persist, announce, in this order (R85). The HELLO
carries the new address. -/
def routeSetAddress (cfg : Cfg) (ctx : Ctx) (f : Frame) : List Event :=
  let a := f.parameters.get 0
  [.setMyAddress a, .saveAddress a, .tx (encodeFrame (makeHello cfg { ctx with myAddress := a }))]

/-- Rules that emit nothing: R78 (invalid SET_ADDRESS), R79 (HELLO), R80 (ACK). -/
def routeNothing : List Event := []

/-- R81 and R82: the frame goes to the application unchanged. -/
def routeForward (f : Frame) : List Event := [.appHandle f]

/-- ROUTE, 44_router.md R74: the arm is chosen by `deviceCommand` alone. -/
def route (cfg : Cfg) (ctx : Ctx) (f : Frame) : List Event :=
  let d := f.deviceCommand
  if classify d = .core then
    if d = cfg.cmdPing then routePing f
    else if d = cfg.cmdReset then routeReset
    else if d = cfg.cmdSetAddress then
      if rejectedAddress (f.parameters.get 0) = true then routeNothing else routeSetAddress cfg ctx f
    else if d = cfg.cmdHello then routeNothing
    else if d = cfg.cmdAck then routeNothing
    else routeForward f
  else routeForward f

/-- The address after an event list: a `SetMyAddress(a)` adopts `a` (44_router.md R73). -/
def adopt (m : Byte) (evs : List Event) : Byte :=
  match evs with
  | [] => m
  | .setMyAddress a :: rest => adopt a rest
  | .tx _ :: rest => adopt m rest
  | .appHandle _ :: rest => adopt m rest
  | .pingRecognized _ :: rest => adopt m rest
  | .hostResetRequest :: rest => adopt m rest
  | .saveAddress _ :: rest => adopt m rest

/-- What RX_STEP does with the frame a byte completed, 44_router.md R73: the address it is matched against is the one
before this step. Gives the new `N.myAddress` and the events. -/
def receive (cfg : Cfg) (ctx : Ctx) (f : Frame) : Byte × List Event :=
  if isForMe f.address ctx.myAddress = true then
    (adopt ctx.myAddress (route cfg ctx f), route cfg ctx f)
  else (ctx.myAddress, [])

/-- RX_STEP, 44_router.md R73: one received byte at node level. Gives `P`, `N.myAddress` and the events. -/
def rxStep (cfg : Cfg) (P : ParserState) (ctx : Ctx) (b : Byte) : ParserState × Byte × List Event :=
  match feed P b with
  | (P', none) => (P', ctx.myAddress, [])
  | (P', some f) => (P', receive cfg ctx f)

end Sys2Proof.Machine
end

