-- ==== Sys2Proof/Machine/Flags.lean ====
section
/-! DEFINITION. The block has no flags and no condition codes (10_state.md R13). What plays their part is the condition
each decode-case row carries (the source_fields of spec/opcode_table.json), and the choice among rows at the three
decoding places of 30_encoding.md R43. -/

namespace Sys2Proof.Machine

/-- The row's condition holds in this state. An operation has none. -/
def selected (i : Instr) (s : State) : Bool :=
  match i with
  | .feedWaitStartStart => s.P.st == .waitStart
  | .feedWaitStartSkip b => s.P.st == .waitStart && b != startByte
  | .feedReadFrame _ => s.P.st == .readFrame
  | .feedReadCrcLow _ => s.P.st == .readCrcLow
  | .feedReadCrcHigh _ => s.P.st == .readCrcHigh
  | .feedWaitEndAccept => s.P.st == .waitEnd && crcMatches s.P
  | .feedWaitEndBadEnd b => s.P.st == .waitEnd && b != endByte
  | .feedWaitEndBadCrc => s.P.st == .waitEnd && !crcMatches s.P
  | .classAbsent => true
  | .classCore c => classify c == .core
  | .classServerCmd c => classify c == .serverCmd
  | .classDeviceEvent c => classify c == .deviceEvent
  | .corePing _ f => f.deviceCommand == s.cfg.cmdPing
  | .coreReset _ f => f.deviceCommand == s.cfg.cmdReset
  | .coreSetAddressValid _ f => f.deviceCommand == s.cfg.cmdSetAddress && !rejectedAddress (f.parameters.get 0)
  | .coreSetAddressInvalid _ f => f.deviceCommand == s.cfg.cmdSetAddress && rejectedAddress (f.parameters.get 0)
  | .coreHello _ f => f.deviceCommand == s.cfg.cmdHello
  | .coreAck _ f => f.deviceCommand == s.cfg.cmdAck
  | .coreUnrecognized _ f => classify f.deviceCommand == .core && !s.cfg.isCode f.deviceCommand
  | .routeForward _ f => classify f.deviceCommand != .core
  | .rxStepNotForMe a => !isForMe a s.myAddress
  | .crc16 _ => true
  | .encodeFrame _ => true
  | .unpack _ => true
  | .feed _ _ => true
  | .classify _ => true
  | .isForMe _ _ => true
  | .route _ _ => true
  | .makeHello _ => true
  | .rxStep _ _ => true
  | .reset _ => true

/-- Parser byte decode, per state (30_encoding.md R43 point 1): the row FEED resolves to. -/
def parserRow (P : ParserState) (b : Byte) : Instr :=
  match P.st with
  | .waitStart => if b = startByte then .feedWaitStartStart else .feedWaitStartSkip b
  | .readFrame => .feedReadFrame b
  | .readCrcLow => .feedReadCrcLow b
  | .readCrcHigh => .feedReadCrcHigh b
  | .waitEnd =>
    if b = endByte then (if crcMatches P = true then .feedWaitEndAccept else .feedWaitEndBadCrc)
    else .feedWaitEndBadEnd b

/-- Command class decode of a byte (30_encoding.md R43 point 2): the row CLASSIFY resolves to. 0x00 is tested first,
then `c[7:6]`. -/
def classRow (c : Byte) : Instr :=
  if c = 0x00 then .classAbsent
  else if c.extractLsb' 6 2 = 0 then .classCore c
  else if c.extractLsb' 6 2 = 1 then .classServerCmd c
  else .classDeviceEvent c

/-- Core-op decode of `deviceCommand` (30_encoding.md R43 point 3): the row ROUTE resolves to. -/
def routeRow (cfg : Cfg) (m : Byte) (f : Frame) : Instr :=
  let d := f.deviceCommand
  if classify d = .core then
    if d = cfg.cmdPing then .corePing m f
    else if d = cfg.cmdReset then .coreReset m f
    else if d = cfg.cmdSetAddress then
      if rejectedAddress (f.parameters.get 0) = true then .coreSetAddressInvalid m f else .coreSetAddressValid m f
    else if d = cfg.cmdHello then .coreHello m f
    else if d = cfg.cmdAck then .coreAck m f
    else .coreUnrecognized m f
  else .routeForward m f

end Sys2Proof.Machine
end

