-- ==== Sys2Proof/Machine/Ops.lean ====
section
/-! DEFINITION. The operations over State that the meanings share. There is no exception to take and none to return
from: "No operation of the block raises a synchronous exception … or transfers control to a handler"
(60_exceptions.md R87), and there is "no trap entry, no trap vector, no saved-state registers, no trap return" (R89). -/

namespace Sys2Proof.Machine

/-- The result of a step of this machine. -/
abbrev Step := Host.Outcome State Fault Refusal

/-- The state with one more completed operation in its trace (10_state.md R19). -/
def State.report (s : State) (r : Result) (evs : List Event) : State :=
  { s with trace := s.trace ++ [{ result := r, events := evs }] }

/-- An operation that completes, changing nothing but the trace: the pure operations (20_memory.md R25). -/
def State.complete (s : State) (r : Result) (evs : List Event) : Step := .next (s.report r evs)

/-- A parser transition that completes: `P` is replaced and the FEED result returned. No event (42_parser.md R66). -/
def State.fed (s : State) (r : ParserState × Option Frame) : Step :=
  .next ({ s with P := r.1 }.report (.fed r.2) [])

/-- A decode-case row runs where its condition holds (log entry 9). -/
def whenSelected (i : Instr) (mnemonic : String) (s : State) (k : Step) : Step :=
  if selected i s = true then k else .refused (.rowNotSelected mnemonic)

/-- An operation that takes a `Cfg` refuses an ill-formed one (00_scope.md R5, 60_exceptions.md R88 point 1). -/
def withCfg (s : State) (k : Step) : Step :=
  if s.cfg.wf = true then k else .refused .illFormedCfg

/-- A byte is fed only between operations (60_exceptions.md R88 points 3 and 4). -/
def atMoment (x : Moment) (k : Step) : Step :=
  match momentRefusal x with
  | none => k
  | some r => .refused r

/-- A node-level receive that completes: `P` and `N.myAddress` are replaced and the events reported. -/
def State.received (s : State) (r : ParserState × Byte × List Event) : Step :=
  .next ({ s with P := r.1, myAddress := r.2.1 }.report .done r.2.2)

/-- The Parser State after a RESET: WaitStart, the other fields any values (70_reset_and_hazards.md R98). They are the
`n`-th free values (log entry 8). -/
def drawnParser (n : Nat) : ParserState where
  st := .waitStart
  buf := Bytes.generate 24 (Config.freeBufByte n)
  idx := Config.freeIdx n
  rxCrc := Config.freeRxCrc n
  fits := rfl

/-- The host-applied reset, 70_reset_and_hazards.md R98: no event is emitted. -/
def State.hostReset (s : State) (load : Option Byte) : State :=
  { s with P := drawnParser s.draws, myAddress := bootAddress load, draws := s.draws + 1 }

/-- The boot of 70_reset_and_hazards.md R100: fix `Cfg`, `deviceType` and `hwId`, then apply RESET. An ill-formed `Cfg`
is refused (R88 point 1). -/
def boot (cfg : Cfg) (deviceType : Byte) (hwId : Bytes 6) (load : Option Byte) : Step :=
  let s : State :=
    { P := resetParser, myAddress := addrUnassigned, cfg := cfg, deviceType := deviceType, hwId := hwId,
      calls := [], trace := [], draws := 0 }
  withCfg s (.next (s.hostReset load))

end Sys2Proof.Machine
end

