-- ==== Sys2Proof/Machine/ClassRows.lean ====
section
/-! DEFINITION. The meanings of the command byte rows, CLASS.* of spec/opcode_table.json (43_classifier.md R68): each
returns its class and changes no state. -/

namespace Sys2Proof.Machine

/-- CLASS.Absent, c = 0x00. -/
def execClassAbsent (s : State) : Step := s.complete (.cls .absent) []

/-- CLASS.Core, c in 0x01..0x3F. -/
def execClassCore (c : Byte) (s : State) : Step :=
  whenSelected (.classCore c) "CLASS.Core" s (s.complete (.cls .core) [])

/-- CLASS.ServerCmd, c in 0x40..0x7F. -/
def execClassServerCmd (c : Byte) (s : State) : Step :=
  whenSelected (.classServerCmd c) "CLASS.ServerCmd" s (s.complete (.cls .serverCmd) [])

/-- CLASS.DeviceEvent, c in 0x80..0xFF. -/
def execClassDeviceEvent (c : Byte) (s : State) : Step :=
  whenSelected (.classDeviceEvent c) "CLASS.DeviceEvent" s (s.complete (.cls .deviceEvent) [])

end Sys2Proof.Machine
end

