-- ==== Sys2Proof/Machine/Operations.lean ====
section
/-! DEFINITION. The meanings of the ten operations, the rows of format `operation` of spec/opcode_table.json. -/

namespace Sys2Proof.Machine

/-- CRC16, 40_crc.md R46: any length. -/
def execCrc16 (bytes : List Byte) (s : State) : Step := s.complete (.crc (crc16 bytes)) []

/-- ENCODE, 41_codec.md R50; a field outside 0..255 is refused and not truncated (R54). -/
def execEncodeFrame (f : WideFrame) (s : State) : Step :=
  if f.inRange = true then s.complete (.wire (encodeFrame f.narrow)) [] else .refused .fieldOutOfRange

/-- UNPACK, 41_codec.md R52. -/
def execUnpack (b : Bytes 24) (s : State) : Step := s.complete (.frame (unpack b)) []

/-- FEED, 42_parser.md R56. -/
def execFeed (x : Moment) (b : Byte) (s : State) : Step := atMoment x (s.fed (feed s.P b))

/-- CLASSIFY, 43_classifier.md R68. -/
def execClassify (c : Byte) (s : State) : Step := s.complete (.cls (classify c)) []

/-- IS_FOR_ME, 43_classifier.md R70. -/
def execIsForMe (a m : Byte) (s : State) : Step := s.complete (.bool (isForMe a m)) []

/-- ROUTE, 44_router.md R74: the events are the operation's result; `N.myAddress` is not written (10_state.md R12). -/
def execRoute (m : Byte) (f : Frame) (s : State) : Step :=
  withCfg s (s.complete .done (route s.cfg (s.ctx m) f))

/-- MAKE_HELLO, 44_router.md R83. -/
def execMakeHello (m : Byte) (s : State) : Step :=
  withCfg s (s.complete (.frame (makeHello s.cfg (s.ctx m))) [])

/-- RX_STEP, 44_router.md R73. -/
def execRxStep (x : Moment) (b : Byte) (s : State) : Step :=
  atMoment x (withCfg s (s.received (rxStep s.cfg s.P (s.ctx s.myAddress) b)))

/-- RESET, 70_reset_and_hazards.md R98. -/
def execReset (load : Option Byte) (s : State) : Step := (s.hostReset load).complete .done []

end Sys2Proof.Machine
end

