-- ==== Sys2Proof/Machine/ParserRows.lean ====
section
/-! DEFINITION. The meanings of the parser byte rows, FEED.* of spec/opcode_table.json (42_parser.md R57 to R62). -/

namespace Sys2Proof.Machine

/-- FEED.WaitStart.start, R57, b = 0xAA. -/
def execFeedWaitStartStart (s : State) : Step :=
  whenSelected .feedWaitStartStart "FEED.WaitStart.start" s (s.fed (feedWaitStart s.P startByte))

/-- FEED.WaitStart.skip, R57, b ≠ 0xAA. -/
def execFeedWaitStartSkip (b : Byte) (s : State) : Step :=
  whenSelected (.feedWaitStartSkip b) "FEED.WaitStart.skip" s (s.fed (feedWaitStart s.P b))

/-- FEED.ReadFrame, R58. -/
def execFeedReadFrame (b : Byte) (s : State) : Step :=
  whenSelected (.feedReadFrame b) "FEED.ReadFrame" s (s.fed (feedReadFrame s.P b))

/-- FEED.ReadCrcLow, R59. -/
def execFeedReadCrcLow (b : Byte) (s : State) : Step :=
  whenSelected (.feedReadCrcLow b) "FEED.ReadCrcLow" s (s.fed (feedReadCrcLow s.P b))

/-- FEED.ReadCrcHigh, R60. -/
def execFeedReadCrcHigh (b : Byte) (s : State) : Step :=
  whenSelected (.feedReadCrcHigh b) "FEED.ReadCrcHigh" s (s.fed (feedReadCrcHigh s.P b))

/-- FEED.WaitEnd.accept, R61, b = 0x55 and the CRC matches. -/
def execFeedWaitEndAccept (s : State) : Step :=
  whenSelected .feedWaitEndAccept "FEED.WaitEnd.accept" s (s.fed (feedAccept s.P))

/-- FEED.WaitEnd.badEnd, R62, b ≠ 0x55; the byte is consumed (R64). -/
def execFeedWaitEndBadEnd (b : Byte) (s : State) : Step :=
  whenSelected (.feedWaitEndBadEnd b) "FEED.WaitEnd.badEnd" s (s.fed (feedDrop s.P))

/-- FEED.WaitEnd.badCrc, R62, b = 0x55 and the CRC does not match. -/
def execFeedWaitEndBadCrc (s : State) : Step :=
  whenSelected .feedWaitEndBadCrc "FEED.WaitEnd.badCrc" s (s.fed (feedDrop s.P))

end Sys2Proof.Machine
end

