-- ==== Sys2Proof/Machine/RouterRows.lean ====
section
/-! DEFINITION. The meanings of the router rows, CORE.* and ROUTE.FORWARD of spec/opcode_table.json (44_router.md R75 to
R82), and of RX_STEP.NOT_FOR_ME (R86). Each router row returns its arm's event list and changes no state: the address
update is an event, which RX_STEP applies (10_state.md R12). -/

namespace Sys2Proof.Machine

/-- CORE.PING, R75. -/
def execCorePing (m : Byte) (f : Frame) (s : State) : Step :=
  withCfg s (whenSelected (.corePing m f) "CORE.PING" s (s.complete .done (routePing f)))

/-- CORE.RESET, R76. -/
def execCoreReset (m : Byte) (f : Frame) (s : State) : Step :=
  withCfg s (whenSelected (.coreReset m f) "CORE.RESET" s (s.complete .done routeReset))

/-- CORE.SET_ADDRESS.valid, R77. -/
def execCoreSetAddressValid (m : Byte) (f : Frame) (s : State) : Step :=
  withCfg s (whenSelected (.coreSetAddressValid m f) "CORE.SET_ADDRESS.valid" s
    (s.complete .done (routeSetAddress s.cfg (s.ctx m) f)))

/-- CORE.SET_ADDRESS.invalid, R78. -/
def execCoreSetAddressInvalid (m : Byte) (f : Frame) (s : State) : Step :=
  withCfg s (whenSelected (.coreSetAddressInvalid m f) "CORE.SET_ADDRESS.invalid" s (s.complete .done routeNothing))

/-- CORE.HELLO, R79: informational, not forwarded. -/
def execCoreHello (m : Byte) (f : Frame) (s : State) : Step :=
  withCfg s (whenSelected (.coreHello m f) "CORE.HELLO" s (s.complete .done routeNothing))

/-- CORE.ACK, R80: informational, not forwarded. -/
def execCoreAck (m : Byte) (f : Frame) (s : State) : Step :=
  withCfg s (whenSelected (.coreAck m f) "CORE.ACK" s (s.complete .done routeNothing))

/-- CORE.UNRECOGNIZED, R81. -/
def execCoreUnrecognized (m : Byte) (f : Frame) (s : State) : Step :=
  withCfg s (whenSelected (.coreUnrecognized m f) "CORE.UNRECOGNIZED" s (s.complete .done (routeForward f)))

/-- ROUTE.FORWARD, R82. -/
def execRouteForward (m : Byte) (f : Frame) (s : State) : Step :=
  withCfg s (whenSelected (.routeForward m f) "ROUTE.FORWARD" s (s.complete .done (routeForward f)))

/-- RX_STEP.NOT_FOR_ME, R86: a frame addressed to `a` causes no event and no state change. -/
def execRxStepNotForMe (a : Byte) (s : State) : Step :=
  whenSelected (.rxStepNotForMe a) "RX_STEP.NOT_FOR_ME" s (s.complete .done [])

end Sys2Proof.Machine
end

