-- ==== Sys2Proof/Machine/Dispatch.lean ====
section
/-! DEFINITION. One arm per row of spec/opcode_table.json, in the table's order. -/

namespace Sys2Proof.Machine

def exec (i : Instr) (s : State) : Host.Outcome State Fault Refusal :=
  match i with
  | .feedWaitStartStart => Sys2Proof.Machine.execFeedWaitStartStart s
  | .feedWaitStartSkip b => Sys2Proof.Machine.execFeedWaitStartSkip b s
  | .feedReadFrame b => Sys2Proof.Machine.execFeedReadFrame b s
  | .feedReadCrcLow b => Sys2Proof.Machine.execFeedReadCrcLow b s
  | .feedReadCrcHigh b => Sys2Proof.Machine.execFeedReadCrcHigh b s
  | .feedWaitEndAccept => Sys2Proof.Machine.execFeedWaitEndAccept s
  | .feedWaitEndBadEnd b => Sys2Proof.Machine.execFeedWaitEndBadEnd b s
  | .feedWaitEndBadCrc => Sys2Proof.Machine.execFeedWaitEndBadCrc s
  | .classAbsent => Sys2Proof.Machine.execClassAbsent s
  | .classCore c => Sys2Proof.Machine.execClassCore c s
  | .classServerCmd c => Sys2Proof.Machine.execClassServerCmd c s
  | .classDeviceEvent c => Sys2Proof.Machine.execClassDeviceEvent c s
  | .corePing m f => Sys2Proof.Machine.execCorePing m f s
  | .coreReset m f => Sys2Proof.Machine.execCoreReset m f s
  | .coreSetAddressValid m f => Sys2Proof.Machine.execCoreSetAddressValid m f s
  | .coreSetAddressInvalid m f => Sys2Proof.Machine.execCoreSetAddressInvalid m f s
  | .coreHello m f => Sys2Proof.Machine.execCoreHello m f s
  | .coreAck m f => Sys2Proof.Machine.execCoreAck m f s
  | .coreUnrecognized m f => Sys2Proof.Machine.execCoreUnrecognized m f s
  | .routeForward m f => Sys2Proof.Machine.execRouteForward m f s
  | .rxStepNotForMe a => Sys2Proof.Machine.execRxStepNotForMe a s
  | .crc16 bytes => Sys2Proof.Machine.execCrc16 bytes s
  | .encodeFrame f => Sys2Proof.Machine.execEncodeFrame f s
  | .unpack b => Sys2Proof.Machine.execUnpack b s
  | .feed x b => Sys2Proof.Machine.execFeed x b s
  | .classify c => Sys2Proof.Machine.execClassify c s
  | .isForMe a m => Sys2Proof.Machine.execIsForMe a m s
  | .route m f => Sys2Proof.Machine.execRoute m f s
  | .makeHello m => Sys2Proof.Machine.execMakeHello m s
  | .rxStep x b => Sys2Proof.Machine.execRxStep x b s
  | .reset load => Sys2Proof.Machine.execReset load s

end Sys2Proof.Machine
end

