-- ==== Sys2Proof/Machine/Fetch.lean ====
section
/-! DEFINITION. Where a step takes its one input from ("Each step takes exactly one input", 60_exceptions.md R90): the
oldest pending call (log entry 1). -/

namespace Sys2Proof.Machine

/-- The oldest pending call and the state without it. -/
def takeCall (s : State) : Option (List Byte × State) :=
  match s.calls with
  | [] => none
  | r :: rest => some (r, { s with calls := rest })

/-- The state whose next step takes the record `r`. -/
def presentCall (s : State) (r : List Byte) : State := { s with calls := r :: s.calls }

/-- A Parser State in which a FEED row is the one selected. `P.st` "takes the sequencing role that a program counter
has" (10_state.md R13), so this is what selects a FEED row (log entry 13). Other rows need no parser state. -/
def parserFor (i : Instr) (P : ParserState) : ParserState :=
  match i with
  | .feedWaitStartStart | .feedWaitStartSkip _ => toWaitStart P
  | .feedReadFrame _ => beginFrame P
  | .feedReadCrcLow _ => { st := .readCrcLow, buf := P.buf, idx := 24, rxCrc := 0x0000, fits := rfl }
  | .feedReadCrcHigh _ => { st := .readCrcHigh, buf := P.buf, idx := 24, rxCrc := 0x0000, fits := rfl }
  | .feedWaitEndAccept => { st := .waitEnd, buf := P.buf, idx := 24, rxCrc := crc16 P.buf.toList, fits := rfl }
  | .feedWaitEndBadEnd _ => { st := .waitEnd, buf := P.buf, idx := 24, rxCrc := P.rxCrc, fits := rfl }
  | .feedWaitEndBadCrc => { st := .waitEnd, buf := P.buf, idx := 24, rxCrc := ~~~ crc16 P.buf.toList, fits := rfl }
  | .classAbsent | .classCore _ | .classServerCmd _ | .classDeviceEvent _ => P
  | .corePing _ _ | .coreReset _ _ | .coreSetAddressValid _ _ | .coreSetAddressInvalid _ _ => P
  | .coreHello _ _ | .coreAck _ _ | .coreUnrecognized _ _ | .routeForward _ _ | .rxStepNotForMe _ => P
  | .crc16 _ | .encodeFrame _ | .unpack _ | .feed _ _ | .classify _ | .isForMe _ _ | .route _ _ => P
  | .makeHello _ | .rxStep _ _ | .reset _ => P

/-- The state, with the parser moved only where the instruction is a FEED row not selected as it stands. -/
def positionFor (i : Instr) (s : State) : State :=
  if selected i s = true then s else { s with P := parserFor i s.P }

end Sys2Proof.Machine
end

