-- ==== Sys2Proof/Machine/Step.lean ====
section
/-! DEFINITION. One step: one operation (00_scope.md R2), on the oldest pending call. -/

namespace Sys2Proof.Machine

/-- One step. With no call pending no operation happens and the state is held (42_parser.md R65, 60_exceptions.md R97;
log entry 3). A record that encodes no call is refused. Otherwise the decoded instruction runs. -/
def step (s : State) : Host.Outcome State Fault Refusal :=
  match takeCall s with
  | none => .next s
  | some (r, s') =>
    match decode r with
    | .error e => .refused (.undecodable e)
    | .ok i => exec i s'

/-- The state whose next step takes the table word `w`; a FEED row is also put in the parser state that selects it
(log entry 13). -/
def State.withFetchWord (s : State) (nbits w : Nat) : State :=
  match decodeTableWord nbits w with
  | some i => presentCall (positionFor i s) (tableBytes nbits w)
  | none => presentCall s (tableBytes nbits w)

end Sys2Proof.Machine
end

