-- ==== Sys2Proof/Machine/Instances.lean ====
section
/-! DEFINITION. Several instances of the block (10_state.md R17, 60_exceptions.md R95). They are independent and
unordered with respect to each other (20_memory.md R26 point 5): which one steps next is the caller's choice
(log entry 14). DESIGN CHOICE (log entry 14): every instance has its own `N.myAddress`, so a SET_ADDRESS accepted on one
receive stream of a node is not seen by another stream of that node; the spec does not say whether they share it. -/

namespace Sys2Proof.Machine

/-- Instance `k` takes one step; the others are not touched, their `N.myAddress` included (DESIGN CHOICE, log entry 14).
A number with no instance behind it steps nothing. -/
def stepInstance (k : Nat) (blocks : List State) : Host.Outcome (List State) Fault Refusal :=
  match blocks[k]? with
  | none => .next blocks
  | some s =>
    match step s with
    | .next t => .next (blocks.set k t)
    | .fault r => .fault r
    | .refused r => .refused r

end Sys2Proof.Machine
end

