-- ==== Sys2Proof/Machine/Program.lean ====
section
/-! DEFINITION. The program notation of 30_encoding.md R44, as data, with the meaning of each line. "Notation only, with
no behaviour" (92_eei_decisions.md D26): each line is a setting of the instance, or a sequence of operations, or one of
the two pseudo-instructions `SEND` and `HELLO` (log entry 15). -/

namespace Sys2Proof.Machine

/-- The names a CFG line assigns. -/
inductive CodeName where
  | hello | ack | ping | reset | setAddress
  deriving DecidableEq, Repr

/-- What a FEED or FEEDP line feeds: a byte, or the macro `FRAME(f)`, which "stands for the 28 bytes `ENCODE(f)`". -/
inductive Item where
  | byte (b : Byte)
  | frame (f : WideFrame)
  deriving DecidableEq, Repr

/-- One line of a program. -/
inductive Line where
  /-- `CFG name = hex, …` -/
  | cfg (codes : List (CodeName × Byte))
  /-- `CTX myAddress= deviceType= hwId=` -/
  | ctx (myAddress deviceType : Byte) (hwId : Bytes 6)
  /-- `FEED bytes`: one RX_STEP per byte, in order -/
  | feed (items : List Item)
  /-- `FEEDP bytes`: one engine-level FEED per byte -/
  | feedp (items : List Item)
  /-- `SEND frame`: ENCODE, then emit Tx -/
  | send (f : WideFrame)
  /-- `HELLO`: MAKE_HELLO, ENCODE, emit Tx -/
  | hello
  /-- `RESET load=` -/
  | reset (load : Option Byte)
  deriving DecidableEq, Repr

/-- One assignment of a CFG line. -/
def assignCode (c : Cfg) (n : CodeName × Byte) : Cfg :=
  match n.1 with
  | .hello => { c with cmdHello := n.2 }
  | .ack => { c with cmdAck := n.2 }
  | .ping => { c with cmdPing := n.2 }
  | .reset => { c with cmdReset := n.2 }
  | .setAddress => { c with cmdSetAddress := n.2 }

/-- The bytes the items stand for; none where a `FRAME` is out of ENCODE's range (41_codec.md R54). -/
def expandItems (l : List Item) : Option (List Byte) :=
  match l with
  | [] => some []
  | .byte b :: rest => (expandItems rest).map (b :: ·)
  | .frame f :: rest =>
    if f.inRange = true then (expandItems rest).map ((encodeFrame f.narrow).toList ++ ·) else none

/-- A list of instructions in order, stopping at the first that gives no next state. -/
def execAll (l : List Instr) (s : State) : Step :=
  match l with
  | [] => .next s
  | i :: rest =>
    match exec i s with
    | .next t => execAll rest t
    | .fault r => .fault r
    | .refused r => .refused r

/-- `Tx(ENCODE(f))`: the send is synchronous and complete (44_router.md R84). -/
def sendFrame (f : Frame) (s : State) : Step := s.complete (.wire (encodeFrame f)) [.tx (encodeFrame f)]

/-- The meaning of one line. DESIGN CHOICE (log entry 15): a CFG or CTX line may stand anywhere, after fed bytes too. CFG
then gives the running instance the new codes and keeps its parser and address; CTX gives it the new device type and
identifier and resets it with the new address. The spec fixes `Cfg`, `deviceType` and `hwId` for an instance's life
(20_memory.md R29) and gives such a line no meaning of its own. -/
def runLine (l : Line) (s : State) : Step :=
  match l with
  | .cfg codes =>
    let s' := { s with cfg := codes.foldl assignCode s.cfg }
    withCfg s' (.next s')
  | .ctx m d h => .next ({ s with deviceType := d, hwId := h }.hostReset (some m))
  | .feed items =>
    match expandItems items with
    | some bytes => execAll (bytes.map (.rxStep .between)) s
    | none => .refused .fieldOutOfRange
  | .feedp items =>
    match expandItems items with
    | some bytes => execAll (bytes.map (.feed .between)) s
    | none => .refused .fieldOutOfRange
  | .send f => if f.inRange = true then sendFrame f.narrow s else .refused .fieldOutOfRange
  | .hello => withCfg s (sendFrame (makeHello s.cfg (s.ctx s.myAddress)) s)
  | .reset load => exec (.reset load) s

/-- A program, line by line. -/
def runProgram (p : List Line) (s : State) : Step :=
  match p with
  | [] => .next s
  | l :: rest =>
    match runLine l s with
    | .next t => runProgram rest t
    | .fault r => .fault r
    | .refused r => .refused r

end Sys2Proof.Machine
end

