-- ==== Sys2Proof/Machine/Notation.lean ====
section
/-! DEFINITION. Reading the textual notation of 30_encoding.md R44 (log entry 15). The text is a list of characters, one
line after another; a token is a list of characters. A text outside the grammar is not a program and reads as nothing.
The two braces are written by their character codes. -/

namespace Sys2Proof.Machine

/-- A token. -/
abbrev Token := List Char

/-- The token of one brace or bracket, by its code. -/
def tokOpenFrame : Token := [Char.ofNat 0x7B]
def tokCloseFrame : Token := [Char.ofNat 0x7D]

/-- The one-character tokens. -/
def isMark (c : Char) : Bool :=
  c == '=' || c == ',' || c == '[' || c == ']' || c == '(' || c == ')' || [c] == tokOpenFrame || [c] == tokCloseFrame

/-- A line without its `--` comment, as the programs of 95_test_vectors.md carry them. -/
def cutComment (l : List Char) : List Char :=
  match l with
  | [] => []
  | c :: rest =>
    match rest with
    | [] => [c]
    | d :: _ => if c = '-' ∧ d = '-' then [] else c :: cutComment rest

/-- The token collected so far (in reverse), if any. -/
def flushToken (cur : List Char) : List Token := if cur = [] then [] else [cur.reverse]

/-- The tokens of a line. -/
def tokens (l cur : List Char) : List Token :=
  match l with
  | [] => flushToken cur
  | c :: rest =>
    if c = ' ' ∨ c = '\t' ∨ c = '\r' then flushToken cur ++ tokens rest []
    else if isMark c = true then flushToken cur ++ [c] :: tokens rest []
    else tokens rest (c :: cur)

/-- The lines of a text. -/
def textLines (l cur : List Char) : List (List Char) :=
  match l with
  | [] => [cur.reverse]
  | c :: rest => if c = '\n' then cur.reverse :: textLines rest [] else textLines rest (c :: cur)

/-- A hexadecimal digit. -/
def hexDigit (c : Char) : Option Nat :=
  let n := c.toNat
  if 48 ≤ n ∧ n ≤ 57 then some (n - 48)
  else if 65 ≤ n ∧ n ≤ 70 then some (n - 55)
  else if 97 ≤ n ∧ n ≤ 102 then some (n - 87)
  else none

/-- The value of hexadecimal digits after `acc`. -/
def hexValue (acc : Nat) (t : Token) : Option Nat :=
  match t with
  | [] => some acc
  | c :: rest => (hexDigit c).bind (fun d => hexValue (16 * acc + d) rest)

/-- `hex`: one or more digits. -/
def hexNumber (t : Token) : Option Nat := if t = [] then none else hexValue 0 t

/-- `hex` where a byte is meant. -/
def hexSmall (t : Token) : Option Byte :=
  (hexNumber t).bind (fun n => if n < 256 then some (BitVec.ofNat 8 n) else none)

/-- `hexbyte`: two digits. -/
def hexByte (t : Token) : Option Byte := if t.length = 2 then hexSmall t else none

/-- `hex6`: twelve digits, taken two by two. -/
def hexPairs (t : Token) : Option (List Byte) :=
  match t with
  | [] => some []
  | [_] => none
  | c :: d :: rest => (hexByte [c, d]).bind (fun b => (hexPairs rest).map (b :: ·))

/-- `hex6`: one token of twelve digits, or six of two. -/
def hexSix (ts : List Token) : Option (Bytes 6) :=
  match ts with
  | [t] => (hexPairs t).bind (Arr.ofList? 6)
  | _ => (ts.mapM hexByte).bind (Arr.ofList? 6)

/-- The names of a CFG line. -/
def codeName (t : Token) : Option CodeName :=
  if t = ['C', 'M', 'D', '_', 'H', 'E', 'L', 'L', 'O'] then some .hello
  else if t = ['C', 'M', 'D', '_', 'A', 'C', 'K'] then some .ack
  else if t = ['C', 'M', 'D', '_', 'P', 'I', 'N', 'G'] then some .ping
  else if t = ['C', 'M', 'D', '_', 'R', 'E', 'S', 'E', 'T'] then some .reset
  else if t = ['C', 'M', 'D', '_', 'S', 'E', 'T', '_', 'A', 'D', 'D', 'R', 'E', 'S', 'S'] then some .setAddress
  else none

/-- The assignments of a CFG line. -/
def readCodes (ts : List Token) : Option (List (CodeName × Byte)) :=
  match ts with
  | [n, e, v] =>
    if e = ['='] then (codeName n).bind (fun c => (hexSmall v).map (fun b => [(c, b)])) else none
  | n :: e :: v :: m :: rest =>
    if e = ['='] ∧ m = [','] then
      (codeName n).bind (fun c => (hexSmall v).bind (fun b => (readCodes rest).map ((c, b) :: ·)))
    else none
  | _ => none

/-- The values up to the closing bracket, and what follows it. -/
def readSlots (ts : List Token) : Option (List Nat × List Token) :=
  match ts with
  | [] => none
  | t :: rest =>
    if t = [']'] then some ([], rest)
    else (hexNumber t).bind (fun n => (readSlots rest).map (fun r => (n :: r.1, r.2)))

/-- The end of a frame: nothing, or `r=` and a value. -/
def readReserved (ts : List Token) : Option (Nat × List Token) :=
  match ts with
  | t :: rest =>
    if t = tokCloseFrame then some (0, rest)
    else match rest with
      | e :: v :: c :: rest' =>
        if t = ['r'] ∧ e = ['='] ∧ c = tokCloseFrame then (hexNumber v).map (fun n => (n, rest')) else none
      | _ => none
  | [] => none

/-- A frame literal: at most 20 parameters, "zero-padded to 20 bytes". Its values may be out of range: ENCODE refuses
them (41_codec.md R54). -/
def literalFrame (a s d : Nat) (ps : List Nat) (r : Nat) : Option WideFrame :=
  if h : ps.length ≤ 20 then
    some { address := a, serverCommand := s, deviceCommand := d,
           parameters := ⟨ps ++ List.replicate (20 - ps.length) 0, by simp; omega⟩, reserved := r }
  else none

/-- `frame`, and what follows it. -/
def readFrameLiteral (ts : List Token) : Option (WideFrame × List Token) :=
  match ts with
  | o :: ka :: e1 :: va :: ks :: e2 :: vs :: kd :: e3 :: vd :: kp :: e4 :: b :: rest =>
    if o = tokOpenFrame ∧ ka = ['a'] ∧ e1 = ['='] ∧ ks = ['s'] ∧ e2 = ['='] ∧ kd = ['d'] ∧ e3 = ['='] ∧
        kp = ['p'] ∧ e4 = ['='] ∧ b = ['['] then
      (hexNumber va).bind fun a => (hexNumber vs).bind fun s => (hexNumber vd).bind fun d =>
        (readSlots rest).bind fun p => (readReserved p.2).bind fun r =>
          (literalFrame a s d p.1 r.1).map (fun f => (f, r.2))
    else none
  | _ => none

/-- What a FEED or FEEDP line feeds. Each item takes at least one token, so the number of tokens is fuel enough. -/
def readItems (fuel : Nat) (ts : List Token) : Option (List Item) :=
  match fuel with
  | 0 => if ts = [] then some [] else none
  | k + 1 =>
    match ts with
    | [] => some []
    | t :: rest =>
      if t = ['F', 'R', 'A', 'M', 'E'] then
        match rest with
        | p :: rest' =>
          if p = ['('] then
            (readFrameLiteral rest').bind fun r =>
              match r.2 with
              | q :: rest'' => if q = [')'] then (readItems k rest'').map (.frame r.1 :: ·) else none
              | [] => none
          else none
        | [] => none
      else (hexByte t).bind fun b => (readItems k rest).map (.byte b :: ·)

/-- The items of a line that feeds at least one. -/
def readFeed (ts : List Token) : Option (List Item) := if ts = [] then none else readItems ts.length ts

/-- The tokens of a CTX line. -/
def readCtx (ts : List Token) : Option Line :=
  match ts with
  | k1 :: e1 :: v1 :: k2 :: e2 :: v2 :: k3 :: e3 :: rest =>
    if k1 = ['m', 'y', 'A', 'd', 'd', 'r', 'e', 's', 's'] ∧ e1 = ['='] ∧
        k2 = ['d', 'e', 'v', 'i', 'c', 'e', 'T', 'y', 'p', 'e'] ∧ e2 = ['='] ∧
        k3 = ['h', 'w', 'I', 'd'] ∧ e3 = ['='] then
      (hexSmall v1).bind fun m => (hexSmall v2).bind fun d => (hexSix rest).map (Line.ctx m d)
    else none
  | _ => none

/-- The tokens of a RESET line; "load defaults to absent". -/
def readReset (ts : List Token) : Option Line :=
  match ts with
  | [] => some (.reset none)
  | [k, e, v] =>
    if k = ['l', 'o', 'a', 'd'] ∧ e = ['='] then
      if v = ['a', 'b', 's', 'e', 'n', 't'] then some (.reset none) else (hexSmall v).map (fun b => .reset (some b))
    else none
  | _ => none

/-- One line, by its first token. -/
def readLine (ts : List Token) : Option Line :=
  match ts with
  | [] => none
  | t :: rest =>
    if t = ['C', 'F', 'G'] then (readCodes rest).map .cfg
    else if t = ['C', 'T', 'X'] then readCtx rest
    else if t = ['F', 'E', 'E', 'D'] then (readFeed rest).map .feed
    else if t = ['F', 'E', 'E', 'D', 'P'] then (readFeed rest).map .feedp
    else if t = ['S', 'E', 'N', 'D'] then
      (readFrameLiteral rest).bind fun r => if r.2 = [] then some (.send r.1) else none
    else if t = ['H', 'E', 'L', 'L', 'O'] then (if rest = [] then some .hello else none)
    else if t = ['R', 'E', 'S', 'E', 'T'] then readReset rest
    else none

/-- A program's text, blank lines left out. -/
def readProgram (text : List Char) : Option (List Line) :=
  (((textLines text []).map (fun l => tokens (cutComment l) [])).filter (fun ts => ts ≠ [])).mapM readLine

end Sys2Proof.Machine
end

