-- ==== Sys2Proof/Safety.lean ====
section
/-! DEFINITION. What a safe run keeps: the invariants of 10_state.md R11, and what the events of a run may be. -/

namespace Sys2Proof.Machine

/-- The invariants of 10_state.md R11 that relate `P.st` to `P.idx` and `P.rxCrc` (the bound of `P.idx` in ReadFrame
is part of `ParserState`). -/
def ParserState.Inv (P : ParserState) : Prop :=
  match P.st with
  | .waitStart => True
  | .readFrame => P.rxCrc = 0x0000
  | .readCrcLow => P.idx.val = 24 ∧ P.rxCrc = 0x0000
  | .readCrcHigh => P.idx.val = 24 ∧ crcHigh P.rxCrc = 0x00
  | .waitEnd => P.idx.val = 24

/-- What an event may be: a `Tx` carries ENCODE of some Frame (44_router.md R84), and the address of a `SetMyAddress`
or a `SaveAddress` is neither 0x00 nor 0xFF (44_router.md R77, R78). -/
def Event.Legal (e : Event) : Prop :=
  match e with
  | .tx w => ∃ f, w = encodeFrame f
  | .appHandle _ => True
  | .pingRecognized _ => True
  | .hostResetRequest => True
  | .saveAddress a => a ≠ 0x00 ∧ a ≠ 0xFF
  | .setMyAddress a => a ≠ 0x00 ∧ a ≠ 0xFF

/-- Every event reported so far is legal. -/
def State.EventsLegal (s : State) : Prop := ∀ o ∈ s.trace, ∀ e ∈ o.events, e.Legal

/-- The invariant of a run: the configuration is well formed (00_scope.md R5), the parser is in order (R11), and every
event so far was legal. -/
structure State.Inv (s : State) : Prop where
  cfg : s.cfg.wf = true
  parser : s.P.Inv
  events : s.EventsLegal

/-- The pure operations of 20_memory.md R25, with the classifier and router rows they resolve to. -/
def pureRow (i : Instr) : Bool :=
  match i with
  | .classAbsent | .classCore _ | .classServerCmd _ | .classDeviceEvent _ => true
  | .corePing _ _ | .coreReset _ _ | .coreSetAddressValid _ _ | .coreSetAddressInvalid _ _ => true
  | .coreHello _ _ | .coreAck _ _ | .coreUnrecognized _ _ | .routeForward _ _ => true
  | .crc16 _ | .encodeFrame _ | .unpack _ | .classify _ | .isForMe _ _ | .route _ _ | .makeHello _ => true
  | .feedWaitStartStart | .feedWaitStartSkip _ | .feedReadFrame _ | .feedReadCrcLow _ | .feedReadCrcHigh _ => false
  | .feedWaitEndAccept | .feedWaitEndBadEnd _ | .feedWaitEndBadCrc => false
  | .rxStepNotForMe _ | .feed _ _ | .rxStep _ _ | .reset _ => false

/-- The FEED rows. -/
def feedRow (i : Instr) : Bool :=
  match i with
  | .feedWaitStartStart | .feedWaitStartSkip _ | .feedReadFrame _ | .feedReadCrcLow _ | .feedReadCrcHigh _ => true
  | .feedWaitEndAccept | .feedWaitEndBadEnd _ | .feedWaitEndBadCrc => true
  | .classAbsent | .classCore _ | .classServerCmd _ | .classDeviceEvent _ => false
  | .corePing _ _ | .coreReset _ _ | .coreSetAddressValid _ _ | .coreSetAddressInvalid _ _ => false
  | .coreHello _ _ | .coreAck _ _ | .coreUnrecognized _ _ | .routeForward _ _ => false
  | .crc16 _ | .encodeFrame _ | .unpack _ | .classify _ | .isForMe _ _ | .route _ _ | .makeHello _ => false
  | .rxStepNotForMe _ | .feed _ _ | .rxStep _ _ | .reset _ => false

/-- The calls of a caller that feeds `bytes` at engine level, one FEED per byte, in order. -/
def feedCalls (bytes : List Byte) : List (List Byte) := bytes.map (fun b => encode (.feed .between b))

/-- The calls of a node that receives `bytes`, one RX_STEP per byte, in order. -/
def rxCalls (bytes : List Byte) : List (List Byte) := bytes.map (fun b => encode (.rxStep .between b))

/-- What a FEED that returns `r` adds to the trace: its value and no event (42_parser.md R66). -/
def fedOutput (r : Option Frame) : Output := { result := .fed r, events := [] }

/-- What an RX_STEP with these events adds to the trace. -/
def rxOutput (evs : List Event) : Output := { result := .done, events := evs }

/-- The check of 30_encoding.md R41 on 28 bytes. -/
def validFrame (w : Bytes 28) : Bool :=
  w.get 0 == 0xAA && joinCrc (w.get 25) (w.get 26) == crc16 (w.slice 1 24).toList && w.get 27 == 0x55

end Sys2Proof.Machine
end

