-- ==== Sys2Proof/Certificates/Slice0/Obligations.lean ====
section
/-! DEFINITION. The statements for the provers. A statement of the form "exec i s = .next (s.report r evs)" says three
things at once: the instruction completes, it returns `r` with the ordered events `evs`, and nothing else of the state
changes (`report` only adds one entry to the trace). Where the Parser State changes too, its fields are given one by
one. -/

open Sys2Proof Sys2Proof.Machine

/-! ### Call records and the step -/

/-- The record encoding is the model's own (log entry 2): decoding the record of a well-formed instruction gives the
instruction back, every operand at every value. -/
def Obligations.DecodeOfEncodeIsTheInstruction : Prop :=
  ∀ i : Instr, WellFormed i = true → decode (encode i) = .ok i

/-- The record encoding is the model's own (log entry 2): what the decoder answers is well formed, and its record is
the encoder's unless the record is a bare table word of one byte. -/
def Obligations.DecodedRecordsAreWellFormedAndExact : Prop :=
  ∀ (r : List Byte) (i : Instr), decode r = .ok i → WellFormed i = true ∧ (r.length = 1 ∨ encode i = r)

/-- Table words as their fixed bits give them (the rows' encoding column; the reading of a bare word is the model's
choice, log entry 2), and rows given by their row number in the second byte. -/
def Obligations.TableWordsDecodeToTheirRows : Prop :=
  decodeTableWord 8 0xAA = some .feedWaitStartStart ∧
  decodeTableWord 8 0x55 = some .feedWaitEndAccept ∧
  decodeTableWord 8 0x00 = some .classAbsent ∧
  decodeTableWord 8 0x3F = some (.classCore 0x3F) ∧
  decodeTableWord 8 0x40 = some (.classServerCmd 0x40) ∧
  decodeTableWord 8 0xFF = some (.classDeviceEvent 0xFF) ∧
  decodeTableWord 16 0x0212 = some (.feedWaitStartSkip 0x12) ∧
  decodeTableWord 16 0x02AA = none ∧
  decodeTableWord 16 0x0855 = some .feedWaitEndBadCrc ∧
  decodeTableWord 24 0x001EAA = some (.rxStep .between 0xAA)

/-- Each step takes exactly one input, the oldest pending call (log entries 1 and 3 say how an input is held): with none
pending the state is held; a record that decodes runs as its instruction on the state without the record; a record that
does not is refused by the decoder's reason. -/
def Obligations.StepRunsTheOldestPendingCall : Prop :=
  ∀ s : State,
    (s.calls = [] → step s = .next s) ∧
    (∀ r rest, s.calls = r :: rest →
      (∀ i, decode r = .ok i → step s = exec i { s with calls := rest }) ∧
      (∀ e, decode r = .error e → step s = .refused (.undecodable e)))

/-- The fetch convention is the model's own (log entry 13): the step after `withFetchWord` runs the word's instruction,
on a state that differs from the given one at most in the Parser State, and for a FEED row is one that selects it. -/
def Obligations.FetchWordRunsOnTheNextStep : Prop :=
  ∀ (s : State) (nbits w : Nat) (i : Instr), decodeTableWord nbits w = some i →
    ∃ P : ParserState, step (s.withFetchWord nbits w) = exec i { s with P := P } ∧
      (selected i s = true → P = s.P) ∧
      (feedRow i = true → selected i { s with P := P } = true)

/-! ### CRC-16 -/

/-- 40_crc.md R45 and R46: CRC16 of no byte is 0xFFFF, and one more byte updates the register by CRC_STEP, which is the
XOR into the top byte and eight bit steps; the operation completes for a list of any length and changes no state. -/
def Obligations.Crc16FoldsTheBitLoopOverTheBytes : Prop :=
  ∀ (s : State) (bytes : List Byte) (b : Byte),
    exec (.crc16 []) s = .next (s.report (.crc 0xFFFF) []) ∧
    (∃ c : U16,
      exec (.crc16 bytes) s = .next (s.report (.crc c) []) ∧
      exec (.crc16 (bytes ++ [b])) s = .next (s.report (.crc (crcStep c b)) [])) ∧
    ∀ c : U16, crcStep c b = Nat.repeat
      (fun r : U16 => if r.getLsbD 15 = true then (r <<< 1) ^^^ 0x1021 else r <<< 1) 8
      (c ^^^ (b.setWidth 16 <<< 8))

/-- 40_crc.md, derived properties of CRC16, point 1: CRC16 is affine in the data. -/
def Obligations.Crc16IsAffineInTheData : Prop :=
  ∀ x y : List Byte, x.length = y.length →
    crc16 (List.zipWith (· ^^^ ·) x y) = crc16 x ^^^ crc16 y ^^^ crc16 (List.replicate x.length 0x00)

/-- 40_crc.md, derived properties of CRC16, point 2: flipping any one bit of a 24-byte body changes its CRC16. -/
def Obligations.Crc16DetectsEverySingleBitFlip : Prop :=
  ∀ (body : Bytes 24) (k j : Nat) (hk : k < 24), j < 8 →
    crc16 (body.set k (body.get k hk ^^^ (0x01#8 <<< j))).toList ≠ crc16 body.toList

/-! ### The codec -/

/-- 41_codec.md R54: ENCODE of a frame whose every field lies in 0..255 completes, whatever its address class, command
class or command fields; a field outside 0..255 is refused and not truncated. -/
def Obligations.EncodeIsTotalInRangeAndRefusesOutside : Prop :=
  ∀ (s : State) (w : WideFrame),
    ((w.address < 256 ∧ w.serverCommand < 256 ∧ w.deviceCommand < 256 ∧
        (∀ p ∈ w.parameters.toList, p < 256) ∧ w.reserved < 256) →
      ∃ bytes : Bytes 28, exec (.encodeFrame w) s = .next (s.report (.wire bytes) [])) ∧
    (¬ (w.address < 256 ∧ w.serverCommand < 256 ∧ w.deviceCommand < 256 ∧
        (∀ p ∈ w.parameters.toList, p < 256) ∧ w.reserved < 256) →
      exec (.encodeFrame w) s = .refused .fieldOutOfRange)

/-- 41_codec.md, ENCODE (`reserved` written as 0x00 is spec decision D10): the 28 bytes ENCODE gives for every Frame:
0xAA, the body with `reserved` written as 0x00, CRC16 of exactly that body low byte first, 0x55. -/
def Obligations.EncodeWritesTheWireFrame : Prop :=
  ∀ (s : State) (f : Frame), ∃ w : Bytes 28,
    exec (.encodeFrame f.widen) s = .next (s.report (.wire w) []) ∧
    (let body := [f.address, f.serverCommand, f.deviceCommand] ++ f.parameters.toList ++ [0x00]
     w.toList = [0xAA] ++ body ++ [(crc16 body).extractLsb' 0 8, (crc16 body).extractLsb' 8 8] ++ [0x55])

/-- 41_codec.md R52 (the carried reserved byte is spec decision D11): UNPACK completes on every 24 bytes, reads each
field from its body offset, and validates none. -/
def Obligations.UnpackReadsEveryBodyOffset : Prop :=
  ∀ (s : State) (b : Bytes 24), ∃ f : Frame,
    exec (.unpack b) s = .next (s.report (.frame f) []) ∧
    f.address = b.get 0 ∧ f.serverCommand = b.get 1 ∧ f.deviceCommand = b.get 2 ∧
    (∀ (k : Nat) (hk : k < 20), f.parameters.get k hk = b.get (k + 3) (by omega)) ∧
    f.reserved = b.get 23

/-- 41_codec.md, the round-trip law, point 2, and injectivity up to `reserved`: unpacking the body ENCODE wrote gives the
frame with `reserved` cleared, and two frames encode alike exactly when they agree but for `reserved`. -/
def Obligations.EncodeIsInvertibleUpToReserved : Prop :=
  (∀ f : Frame, unpack ((encodeFrame f).slice 1 24) = { f with reserved := 0x00 }) ∧
  (∀ f g : Frame, encodeFrame f = encodeFrame g ↔
    ({ f with reserved := 0x00 } : Frame) = { g with reserved := 0x00 })

/-! ### The stream parser -/

/-- 42_parser.md, WaitStart (setting the CRC accumulator to 0x0000 is spec decision D6): the start byte opens a frame with
the buffer kept; any other byte is discarded with `P` unchanged. -/
def Obligations.WaitStartRowsOpenAFrameOrSkip : Prop :=
  ∀ s : State, s.P.st = .waitStart →
    (∃ P : ParserState,
      exec .feedWaitStartStart s = .next ({ s with P := P }.report (.fed none) []) ∧
      P.st = .readFrame ∧ P.idx.val = 0 ∧ P.rxCrc = 0x0000 ∧ P.buf = s.P.buf) ∧
    (∀ b : Byte, b ≠ 0xAA → exec (.feedWaitStartSkip b) s = .next (s.report (.fed none) []))

/-- 42_parser.md R58: every byte value is stored at `P.idx`, which goes up by one; the 24th makes the transition. -/
def Obligations.ReadFrameStoresEveryByte : Prop :=
  ∀ (s : State) (b : Byte), s.P.st = .readFrame → ∃ P : ParserState,
    exec (.feedReadFrame b) s = .next ({ s with P := P }.report (.fed none) []) ∧
    P.buf = s.P.buf.set s.P.idx.val b ∧ P.idx.val = s.P.idx.val + 1 ∧ P.rxCrc = s.P.rxCrc ∧
    P.st = (if s.P.idx.val + 1 = 24 then .readCrcLow else .readFrame)

/-- 42_parser.md R59 and R60: the two CRC bytes, whatever their value, are assembled low byte first; where the high half
of `P.rxCrc` is 0, as it is at this point of a frame, the OR sets it to the second byte. -/
def Obligations.CrcByteRowsAssembleTheReceivedCrc : Prop :=
  ∀ (s : State) (b : Byte),
    (s.P.st = .readCrcLow → ∃ P : ParserState,
      exec (.feedReadCrcLow b) s = .next ({ s with P := P }.report (.fed none) []) ∧
      P.st = .readCrcHigh ∧ P.rxCrc = b.setWidth 16 ∧ P.buf = s.P.buf ∧ P.idx = s.P.idx) ∧
    (s.P.st = .readCrcHigh → ∃ P : ParserState,
      exec (.feedReadCrcHigh b) s = .next ({ s with P := P }.report (.fed none) []) ∧
      P.st = .waitEnd ∧ P.rxCrc = s.P.rxCrc ||| (b.setWidth 16 <<< 8) ∧ P.buf = s.P.buf ∧ P.idx = s.P.idx ∧
      (s.P.rxCrc.extractLsb' 8 8 = 0 →
        P.rxCrc.extractLsb' 8 8 = b ∧ P.rxCrc.extractLsb' 0 8 = s.P.rxCrc.extractLsb' 0 8))

/-- 42_parser.md, WaitEnd success (evaluating the CRC at WaitEnd is spec decision D9): where CRC16 of the buffer equals the
received CRC, the frame in the buffer is emitted. -/
def Obligations.WaitEndAcceptEmitsTheBufferedFrame : Prop :=
  ∀ s : State, s.P.st = .waitEnd → crc16 s.P.buf.toList = s.P.rxCrc → ∃ P : ParserState,
    exec .feedWaitEndAccept s = .next ({ s with P := P }.report (.fed (some (unpack s.P.buf))) []) ∧
    P.st = .waitStart ∧ P.buf = s.P.buf ∧ P.idx = s.P.idx ∧ P.rxCrc = s.P.rxCrc

/-- 42_parser.md R62: a wrong end byte, 0xAA included, or a CRC mismatch drops the frame: WaitStart, `None`, no event,
and the two rows leave the same Parser State. -/
def Obligations.WaitEndFailureDropsSilently : Prop :=
  ∀ s : State, s.P.st = .waitEnd → ∃ P : ParserState,
    P.st = .waitStart ∧ P.buf = s.P.buf ∧ P.idx = s.P.idx ∧ P.rxCrc = s.P.rxCrc ∧
    (∀ b : Byte, b ≠ 0x55 →
      exec (.feedWaitEndBadEnd b) s = .next ({ s with P := P }.report (.fed none) [])) ∧
    (crc16 s.P.buf.toList ≠ s.P.rxCrc →
      exec .feedWaitEndBadCrc s = .next ({ s with P := P }.report (.fed none) []))

/-- 42_parser.md, FEED: FEED between operations answers a next state on every state and every byte, makes exactly the
transition of the row the current parser state and the byte select, and returns `Some(f)` only from the accepting row. -/
def Obligations.FeedIsTotalAndRunsTheSelectedRow : Prop :=
  ∀ (s : State) (b : Byte),
    (∃ t r, exec (.feed .between b) s = .next t ∧ t.trace = s.trace ++ [fedOutput r] ∧
      (r ≠ none → s.P.st = .waitEnd ∧ b = 0x55 ∧ crc16 s.P.buf.toList = s.P.rxCrc)) ∧
    (s.P.st = .waitStart →
      exec (.feed .between b) s = exec (if b = 0xAA then .feedWaitStartStart else .feedWaitStartSkip b) s) ∧
    (s.P.st = .readFrame → exec (.feed .between b) s = exec (.feedReadFrame b) s) ∧
    (s.P.st = .readCrcLow → exec (.feed .between b) s = exec (.feedReadCrcLow b) s) ∧
    (s.P.st = .readCrcHigh → exec (.feed .between b) s = exec (.feedReadCrcHigh b) s) ∧
    (s.P.st = .waitEnd → exec (.feed .between b) s =
      exec (if b = 0x55 then (if crc16 s.P.buf.toList = s.P.rxCrc then .feedWaitEndAccept else .feedWaitEndBadCrc)
        else .feedWaitEndBadEnd b) s)

/-- 60_exceptions.md, refusals 3 and 4 (spec decisions D24, D25; the moment as an operand is log entry 10): a byte fed
at any other moment than between operations is refused, by FEED and by RX_STEP, under its own name. -/
def Obligations.FeedingOutsideItsMomentIsRefused : Prop :=
  ∀ (s : State) (b : Byte),
    exec (.feed .concurrent b) s = .refused .concurrentFeed ∧
    exec (.rxStep .concurrent b) s = .refused .concurrentFeed ∧
    exec (.feed .insideCallback b) s = .refused .reentrantFeed ∧
    exec (.rxStep .insideCallback b) s = .refused .reentrantFeed ∧
    exec (.feed .duringTx b) s = .refused .feedDuringTx ∧
    exec (.rxStep .duringTx b) s = .refused .feedDuringTx

/-- The model's choice (log entry 9): with a well-formed `Cfg`, an instruction term is refused as not selected exactly
where its row's condition fails; every other refusal is a term outside ENCODE's range or a byte at a wrong moment. -/
def Obligations.InstructionsStopOnlyWhereTheirRowIsNotSelected : Prop :=
  ∀ (i : Instr) (s : State), s.cfg.wf = true →
    (∀ w, i = .encodeFrame w → w.inRange = true) →
    (∀ x b, i = .feed x b ∨ i = .rxStep x b → x = .between) →
    (selected i s = true → ∃ t, exec i s = .next t) ∧
    (selected i s = false → ∃ name, exec i s = .refused (.rowNotSelected name))

/-! ### The classifier -/

/-- 43_classifier.md R68: the class of every command byte by its range. -/
def Obligations.ClassifyByRange : Prop :=
  ∀ (s : State) (c : Byte),
    exec (.classify c) s = .next (s.report (.cls
      (if c.toNat = 0 then .absent
       else if c.toNat ≤ 0x3F then .core
       else if c.toNat ≤ 0x7F then .serverCmd
       else .deviceEvent)) [])

/-- 43_classifier.md, the partition law in its bit form: CLASSIFY is the one row the top two bits select, each class row
completes on the bytes of its class and, by the model's choice (log entry 9), is refused on the others. -/
def Obligations.ClassRowsPartitionTheCommandBytes : Prop :=
  ∀ (s : State) (c : Byte),
    exec .classAbsent s = .next (s.report (.cls .absent) []) ∧
    (c ≠ 0 → c.extractLsb' 6 2 = 0 → exec (.classCore c) s = .next (s.report (.cls .core) [])) ∧
    (c.extractLsb' 6 2 = 1 → exec (.classServerCmd c) s = .next (s.report (.cls .serverCmd) [])) ∧
    (c.getLsbD 7 = true → exec (.classDeviceEvent c) s = .next (s.report (.cls .deviceEvent) [])) ∧
    (c = 0 ∨ c.extractLsb' 6 2 ≠ 0 → exec (.classCore c) s = .refused (.rowNotSelected "CLASS.Core")) ∧
    (c.extractLsb' 6 2 ≠ 1 → exec (.classServerCmd c) s = .refused (.rowNotSelected "CLASS.ServerCmd")) ∧
    (c.getLsbD 7 = false → exec (.classDeviceEvent c) s = .refused (.rowNotSelected "CLASS.DeviceEvent")) ∧
    exec (.classify c) s = exec (classRow c) s ∧
    (c ≠ 0 → ∃! r : CommandClass, r ≠ .absent ∧ exec (.classify c) s = .next (s.report (.cls r) []))

/-- 43_classifier.md, the IS_FOR_ME laws (no limit on `m` is spec decision D33): the address matches exactly when it is
the node's own or broadcast. -/
def Obligations.IsForMeMatchesOwnAddressOrBroadcast : Prop :=
  ∀ (s : State) (a m : Byte),
    exec (.isForMe a m) s = .next (s.report (.bool (decide (a = m ∨ a = 0xFE))) [])

/-! ### The router -/

/-- 44_router.md, PING and RESET (spec decisions D19, D20): one event, no frame sent, no state changed. -/
def Obligations.PingAndResetRowsEmitTheirEvent : Prop :=
  ∀ (s : State) (m : Byte) (f : Frame), s.cfg.wf = true →
    (f.deviceCommand = s.cfg.cmdPing →
      exec (.corePing m f) s = .next (s.report .done [.pingRecognized f])) ∧
    (f.deviceCommand = s.cfg.cmdReset →
      exec (.coreReset m f) s = .next (s.report .done [.hostResetRequest]))

/-- 44_router.md, SET_ADDRESS with a valid address (spec decisions D17, D18): adopt, persist, announce, in this order;
the announcement is ENCODE of the HELLO of the new address, and `N.myAddress` is not written by the router. -/
def Obligations.SetAddressRowAdoptsPersistsAnnounces : Prop :=
  ∀ (s : State) (m : Byte) (f : Frame), s.cfg.wf = true → f.deviceCommand = s.cfg.cmdSetAddress →
    f.parameters.get 0 ≠ 0x00 → f.parameters.get 0 ≠ 0xFF → ∃ hello : Frame,
      exec (.coreSetAddressValid m f) s = .next (s.report .done
        [.setMyAddress (f.parameters.get 0), .saveAddress (f.parameters.get 0), .tx (encodeFrame hello)]) ∧
      hello.address = 0x01 ∧ hello.serverCommand = 0x00 ∧ hello.deviceCommand = s.cfg.cmdHello ∧
      hello.reserved = 0x00 ∧
      hello.parameters.toList = [f.parameters.get 0, s.deviceType] ++ List.replicate 18 0x00

/-- 44_router.md R78: a SET_ADDRESS that carries 0x00 or 0xFF causes no event: the row, ROUTE, and an RX_STEP whose byte
completes the frame all report none, and `N.myAddress` is unchanged. -/
def Obligations.InvalidSetAddressIsIgnored : Prop :=
  ∀ (s : State) (m : Byte) (f : Frame), s.cfg.wf = true → f.deviceCommand = s.cfg.cmdSetAddress →
    (f.parameters.get 0 = 0x00 ∨ f.parameters.get 0 = 0xFF) →
      exec (.coreSetAddressInvalid m f) s = .next (s.report .done []) ∧
      exec (.route m f) s = .next (s.report .done []) ∧
      (∀ b : Byte, (feed s.P b).2 = some f →
        exec (.rxStep .between b) s = .next ({ s with P := (feed s.P b).1 }.report .done []))

/-- 44_router.md, HELLO and ACK received (not forwarded: spec decision D34): no event. -/
def Obligations.HelloAndAckRowsEmitNothing : Prop :=
  ∀ (s : State) (m : Byte) (f : Frame), s.cfg.wf = true →
    (f.deviceCommand = s.cfg.cmdHello → exec (.coreHello m f) s = .next (s.report .done [])) ∧
    (f.deviceCommand = s.cfg.cmdAck → exec (.coreAck m f) s = .next (s.report .done []))

/-- 44_router.md, unrecognized core op and forward (spec decisions D13, D14, D35): the whole frame goes to the
application unchanged, its `serverCommand`, every parameter and its `reserved` byte included. -/
def Obligations.OtherFramesGoToTheApplicationUnchanged : Prop :=
  ∀ (s : State) (m : Byte) (f : Frame), s.cfg.wf = true →
    (1 ≤ f.deviceCommand.toNat → f.deviceCommand.toNat ≤ 0x3F →
      f.deviceCommand ∉ [s.cfg.cmdHello, s.cfg.cmdAck, s.cfg.cmdPing, s.cfg.cmdReset, s.cfg.cmdSetAddress] →
      exec (.coreUnrecognized m f) s = .next (s.report .done [.appHandle f])) ∧
    (f.deviceCommand = 0x00 ∨ 0x40 ≤ f.deviceCommand.toNat →
      exec (.routeForward m f) s = .next (s.report .done [.appHandle f]))

/-- 44_router.md, ROUTE (spec decision D12): with a well-formed `Cfg`, ROUTE completes and is exactly the one row that
`deviceCommand` selects, for every frame, with `parameters[0]` choosing between the two SET_ADDRESS rows; the context's
address, the frame's address, `serverCommand`, the other parameters and `reserved` choose nothing. -/
def Obligations.RouteRunsTheRowDeviceCommandSelects : Prop :=
  ∀ (s : State) (m : Byte) (f : Frame), s.cfg.wf = true →
    (∃ evs, exec (.route m f) s = .next (s.report .done evs)) ∧
    exec (.route m f) s = exec (routeRow s.cfg m f) s ∧
    (∀ (m' a sc r : Byte) (ps : Bytes 20), ps.get 0 = f.parameters.get 0 →
      rowNumber (routeRow s.cfg m'
        { address := a, serverCommand := sc, deviceCommand := f.deviceCommand, parameters := ps, reserved := r }) =
      rowNumber (routeRow s.cfg m f))

/-- 44_router.md, MAKE_HELLO, and 30_encoding.md, HELLO payload (spec decisions D15, D16): the fields and every parameter
slot of the identity frame; `hwId` is carried only by an unassigned sender. -/
def Obligations.MakeHelloCarriesTheIdentity : Prop :=
  ∀ (s : State) (m : Byte), s.cfg.wf = true → ∃ f : Frame,
    exec (.makeHello m) s = .next (s.report (.frame f) []) ∧
    f.address = 0x01 ∧ f.serverCommand = 0x00 ∧ f.deviceCommand = s.cfg.cmdHello ∧ f.reserved = 0x00 ∧
    f.parameters.get 0 = m ∧ f.parameters.get 1 = s.deviceType ∧
    (∀ (k : Nat) (hk : k < 6),
      f.parameters.get (k + 2) (by omega) = if m = 0x00 then s.hwId.get k hk else 0x00) ∧
    (∀ (k : Nat) (hk : k < 12), f.parameters.get (k + 8) (by omega) = 0x00)

/-! ### The receive step -/

/-- 44_router.md, RX_STEP (the address is the one before the step, spec decision D37): the parser takes FEED's transition;
without a completed frame nothing else happens; a completed frame for this node is routed and an accepted SET_ADDRESS
adopts its address. -/
def Obligations.RxStepFeedsMatchesAndRoutes : Prop :=
  ∀ (s : State) (b : Byte), s.cfg.wf = true →
    ((feed s.P b).2 = none →
      exec (.rxStep .between b) s = .next ({ s with P := (feed s.P b).1 }.report .done [])) ∧
    (∀ f, (feed s.P b).2 = some f → (f.address = s.myAddress ∨ f.address = 0xFE) → ∃ evs,
      exec (.route s.myAddress f) s = .next (s.report .done evs) ∧
      exec (.rxStep .between b) s = .next
        ({ s with
            P := (feed s.P b).1
            myAddress :=
              if f.deviceCommand = s.cfg.cmdSetAddress ∧ f.parameters.get 0 ≠ 0x00 ∧ f.parameters.get 0 ≠ 0xFF
              then f.parameters.get 0 else s.myAddress }.report .done evs))

/-- 44_router.md R86: a frame that is not for this node causes no event and no state change: its row, and an RX_STEP
whose byte completes it, where `P` is back in WaitStart. -/
def Obligations.FrameNotForThisNodeIsIgnored : Prop :=
  ∀ (s : State) (f : Frame), f.address ≠ s.myAddress → f.address ≠ 0xFE →
    exec (.rxStepNotForMe f.address) s = .next (s.report .done []) ∧
    (s.cfg.wf = true → ∀ b : Byte, (feed s.P b).2 = some f →
      (feed s.P b).1.st = .waitStart ∧
      exec (.rxStep .between b) s = .next ({ s with P := (feed s.P b).1 }.report .done []))

/-- 44_router.md, order of events (spec decision D18): the events of one RX_STEP are none, one, or exactly SetMyAddress,
SaveAddress and Tx in this order, with one address in all of them. -/
def Obligations.RxStepEmitsAtMostThreeEventsInOrder : Prop :=
  ∀ (s t : State) (b : Byte), exec (.rxStep .between b) s = .next t →
    ∃ evs, t.trace = s.trace ++ [rxOutput evs] ∧
      (evs = [] ∨ (∃ f, evs = [.appHandle f]) ∨ (∃ f, evs = [.pingRecognized f]) ∨ evs = [.hostResetRequest] ∨
        (∃ a, t.myAddress = a ∧
          evs = [.setMyAddress a, .saveAddress a, .tx (encodeFrame (makeHello s.cfg (s.ctx a)))]))

/-! ### Reset, boot and configuration -/

/-- 70_reset_and_hazards.md, RESET and boot address (spec decisions D4, D5, D21; the other parser fields are free values,
log entry 8): WaitStart whatever the state was, the loaded address unchecked or 0x00 for "absent", no event; the
configuration, the node's identity and the pending calls are unchanged. -/
def Obligations.ResetReturnsToWaitStartWithTheLoadedAddress : Prop :=
  ∀ (s : State) (load : Option Byte), ∃ t : State,
    exec (.reset load) s = .next t ∧ t.P.st = .waitStart ∧
    (∀ v, load = some v → t.myAddress = v) ∧ (load = none → t.myAddress = 0x00) ∧
    t.cfg = s.cfg ∧ t.deviceType = s.deviceType ∧ t.hwId = s.hwId ∧ t.calls = s.calls ∧
    t.trace = s.trace ++ [{ result := .done, events := [] }]

/-- 00_scope.md, `Cfg`, and 70_reset_and_hazards.md, boot requirements (spec decision D27): every operation or row that takes
a `Cfg` refuses one whose codes are not all in 0x01..0x3F or not pairwise distinct, boot included; with any other, boot
gives a waiting parser and the loaded address. -/
def Obligations.IllFormedCfgIsRefusedAndBootFixesIt : Prop :=
  ∀ (cfg : Cfg) (deviceType : Byte) (hwId : Bytes 6) (load : Option Byte),
    (let codes := [cfg.cmdHello, cfg.cmdAck, cfg.cmdPing, cfg.cmdReset, cfg.cmdSetAddress]
     (codes.Nodup ∧ ∀ c ∈ codes, 1 ≤ c.toNat ∧ c.toNat ≤ 0x3F) →
       ∃ t : State, boot cfg deviceType hwId load = .next t ∧ t.P.st = .waitStart ∧ t.myAddress = load.getD 0x00 ∧
         t.cfg = cfg ∧ t.deviceType = deviceType ∧ t.hwId = hwId) ∧
    (let codes := [cfg.cmdHello, cfg.cmdAck, cfg.cmdPing, cfg.cmdReset, cfg.cmdSetAddress]
     ¬ (codes.Nodup ∧ ∀ c ∈ codes, 1 ≤ c.toNat ∧ c.toNat ≤ 0x3F) →
       boot cfg deviceType hwId load = .refused .illFormedCfg ∧
       ∀ (s : State) (m b : Byte) (f : Frame), s.cfg = cfg →
         exec (.route m f) s = .refused .illFormedCfg ∧
         exec (.makeHello m) s = .refused .illFormedCfg ∧
         exec (.rxStep .between b) s = .refused .illFormedCfg ∧
         ∀ i ∈ [Instr.corePing m f, .coreReset m f, .coreSetAddressValid m f, .coreSetAddressInvalid m f, .coreHello m f,
             .coreAck m f, .coreUnrecognized m f, .routeForward m f],
           exec i s = .refused .illFormedCfg)

/-- The reset state is in order (its address, its configuration and its dead parser fields are the model's choice, log
entries 5, 6 and 7; WaitStart is 10_state.md, reset values). -/
def Obligations.ResetStateIsInOrder : Prop :=
  State.reset.P.st = .waitStart ∧ State.reset.myAddress = 0x00 ∧ State.reset.calls = [] ∧ State.reset.trace = [] ∧
  State.reset.Inv

/-! ### Whole-machine rules -/

/-- 10_state.md, Parser State invariants, and 44_router.md, transmit: every step keeps the invariant: the configuration
well formed, the parser's fields in the relation its state fixes, every Tx an ENCODE of a Frame, every adopted or saved
address neither 0x00 nor 0xFF. -/
def Obligations.EveryStepKeepsTheInvariant : Prop :=
  ∀ s t : State, s.Inv → step s = .next t → t.Inv

/-- 10_state.md, node-context register (spec decisions D36, D37): `N.myAddress` is written only by RESET, with the loaded
value, and by an RX_STEP whose byte completes a SET_ADDRESS frame for this node that carries a legal address. -/
def Obligations.OnlyResetAndAcceptedSetAddressWriteMyAddress : Prop :=
  ∀ (i : Instr) (s t : State), exec i s = .next t → t.myAddress ≠ s.myAddress →
    (∃ load, i = .reset load ∧ t.myAddress = load.getD 0x00) ∨
    (∃ b f, i = .rxStep .between b ∧ (feed s.P b).2 = some f ∧ (f.address = s.myAddress ∨ f.address = 0xFE) ∧
      f.deviceCommand = s.cfg.cmdSetAddress ∧ t.myAddress = f.parameters.get 0 ∧
      t.myAddress ≠ 0x00 ∧ t.myAddress ≠ 0xFF)

/-- 20_memory.md, configuration stability (spec decision D38), and 60_exceptions.md, one input per step: a step never
writes `Cfg`, `deviceType` or `hwId`; with a call pending it consumes the oldest one and completes exactly one operation.
How calls wait, that the trace gets one entry per operation, and that a step with no call pending changes nothing are the
model's choice (log entries 1, 4 and 3). -/
def Obligations.EveryStepKeepsTheConfigurationAndReportsOnce : Prop :=
  ∀ s t : State, step s = .next t →
    t.cfg = s.cfg ∧ t.deviceType = s.deviceType ∧ t.hwId = s.hwId ∧
    ((s.calls = [] ∧ t = s) ∨ (∃ r o, s.calls = r :: t.calls ∧ t.trace = s.trace ++ [o]))

/-- 20_memory.md, widths, atomicity, side effects: the pure operations and the rows they resolve to change no state: all
they leave is one report, whose value depends on neither the Parser State nor `N.myAddress`. -/
def Obligations.PureOperationsOnlyReport : Prop :=
  ∀ (i : Instr) (s t : State), exec i s = .next t →
    pureRow i = true →
    ∃ r evs, t = s.report r evs ∧
      ∀ s' : State, s'.cfg = s.cfg → s'.deviceType = s.deviceType → s'.hwId = s.hwId →
        exec i s' = .next (s'.report r evs)

/-- 20_memory.md, storage: `P.buf` is written only in ReadFrame, by a FEED row, FEED or RX_STEP, and there in one place
only; apart from that only a RESET leaves other contents. -/
def Obligations.OnlyReadFrameWritesTheBuffer : Prop :=
  ∀ (i : Instr) (s t : State), exec i s = .next t → t.P.buf ≠ s.P.buf →
    (∃ load, i = .reset load) ∨
    (s.P.st = .readFrame ∧ (∃ b, t.P.buf = s.P.buf.set s.P.idx.val b) ∧
      ∃ b, i = .feedReadFrame b ∨ i = .feed .between b ∨ i = .rxStep .between b)

/-- 60_exceptions.md, no exceptions: no step ends in a fault, and malformed wire data does not even end in a refusal: any bytes fed
in any parser state are all taken, and none of them reports an event. -/
def Obligations.MalformedWireDataNeverStopsTheEngine : Prop :=
  (∀ (s : State) (r : Fault), step s ≠ .fault r) ∧
  (∀ (s : State) (bytes : List Byte), s.calls = feedCalls bytes →
    ∃ t : State, Sys2Proof.core.run bytes.length s = .next t ∧
      ∃ rs : List (Option Frame), rs.length = bytes.length ∧ t.trace = s.trace ++ rs.map fedOutput)

/-- 10_state.md, instances, and 20_memory.md, ordering, point 5: two instances share no state: a step of one leaves every
other as it is, and two steps of different instances give the same whichever comes first. That the instances are a list of
states, each with its own `N.myAddress`, is the model's choice (log entry 14). -/
def Obligations.InstancesShareNoState : Prop :=
  ∀ (blocks after : List State) (j k : Nat), j ≠ k →
    (stepInstance j blocks = .next after → after[k]? = blocks[k]?) ∧
    (∀ a b ab : List State, stepInstance j blocks = .next a → stepInstance k a = .next ab →
      stepInstance k blocks = .next b → stepInstance j b = .next ab)

/-- 92_eei_decisions.md D5 and 10_state.md, Parser State invariants: in WaitStart the values of `P.buf`, `P.idx` and
`P.rxCrc` are dead: two states that differ in nothing else run alike for any number of steps, whatever calls are pending,
in everything a caller or collaborator sees. -/
def Obligations.DeadParserFieldsAreUnobservable : Prop :=
  ∀ (n : Nat) (s : State) (Q : ParserState), s.P.st = .waitStart → Q.st = .waitStart →
    (∀ s' : State, Sys2Proof.core.run n s = .next s' →
      ∃ t' : State, Sys2Proof.core.run n { s with P := Q } = .next t' ∧
        t'.trace = s'.trace ∧ t'.myAddress = s'.myAddress ∧ t'.P.st = s'.P.st ∧ t'.calls = s'.calls) ∧
    (∀ r : Refusal, Sys2Proof.core.run n s = .refused r → Sys2Proof.core.run n { s with P := Q } = .refused r)

/-! ### Streams -/

/-- 10_state.md, Parser State invariants, on the bytes themselves: after a start byte in WaitStart, the body bytes stand
in the buffer in arrival order with `P.idx` their number; after the 24th, after the first CRC byte and after the second
the parser is in ReadCrcLow, ReadCrcHigh and WaitEnd, with the body in the buffer, `P.idx` 24, and `P.rxCrc` zero, the
first byte, and both bytes assembled low byte first. -/
def Obligations.ParserHoldsTheBytesReceivedSoFar : Prop :=
  ∀ (P : ParserState) (body : List Byte) (lo hi : Byte), P.st = .waitStart →
    (body.length < 24 → (feedAll P (0xAA :: body)).1.st = .readFrame ∧
      (feedAll P (0xAA :: body)).1.idx.val = body.length ∧
      (feedAll P (0xAA :: body)).1.buf.toList.take body.length = body ∧
      (feedAll P (0xAA :: body)).1.rxCrc = 0x0000) ∧
    (body.length = 24 → (feedAll P (0xAA :: body)).1.st = .readCrcLow ∧
      (feedAll P (0xAA :: body)).1.idx.val = 24 ∧
      (feedAll P (0xAA :: body)).1.buf.toList = body ∧
      (feedAll P (0xAA :: body)).1.rxCrc = 0x0000) ∧
    (body.length = 24 → (feedAll P (0xAA :: body ++ [lo])).1.st = .readCrcHigh ∧
      (feedAll P (0xAA :: body ++ [lo])).1.idx.val = 24 ∧
      (feedAll P (0xAA :: body ++ [lo])).1.buf.toList = body ∧
      (feedAll P (0xAA :: body ++ [lo])).1.rxCrc = lo.setWidth 16) ∧
    (body.length = 24 → (feedAll P (0xAA :: body ++ [lo, hi])).1.st = .waitEnd ∧
      (feedAll P (0xAA :: body ++ [lo, hi])).1.idx.val = 24 ∧
      (feedAll P (0xAA :: body ++ [lo, hi])).1.buf.toList = body ∧
      (feedAll P (0xAA :: body ++ [lo, hi])).1.rxCrc = lo.setWidth 16 ||| (hi.setWidth 16 <<< 8))

/-- 42_parser.md, derived stream properties, points 1 and 6, and no timeout: once a start byte is accepted exactly 27 more
bytes, whatever they are, bring the parser back to WaitStart, and no fewer do. -/
def Obligations.AFrameAttemptTakesExactlyTwentySevenMoreBytes : Prop :=
  ∀ (s : State) (bytes : List Byte) (rest : List (List Byte)), s.P.st = .waitStart →
    s.calls = feedCalls (0xAA :: bytes) ++ rest → bytes.length ≤ 27 →
    ∃ t : State, Sys2Proof.core.run (bytes.length + 1) s = .next t ∧ t.calls = rest ∧
      (t.P.st = .waitStart ↔ bytes.length = 27)

/-- 30_encoding.md, frame validity: 28 bytes fed from WaitStart are received as a frame at the 28th exactly when they start
with 0xAA, end with 0x55 and carry CRC16 of their body low byte first; the frame is the unpacked body; nothing else is
checked. -/
def Obligations.BytesAreReceivedExactlyWhenValid : Prop :=
  ∀ (s : State) (w : Bytes 28), s.P.st = .waitStart → s.calls = feedCalls w.toList →
    ∃ t : State, Sys2Proof.core.run 28 s = .next t ∧
      t.trace.getLast? = some (fedOutput
        (if w.get 0 = 0xAA ∧ (w.get 25).setWidth 16 ||| ((w.get 26).setWidth 16 <<< 8) = crc16 (w.slice 1 24).toList ∧
            w.get 27 = 0x55
         then some (unpack (w.slice 1 24)) else none))

/-- 41_codec.md, the round-trip law, point 1, and 42_parser.md, derived stream properties, points 2 and 7: encoded frames,
each after any number of bytes that are not 0xAA, fed from WaitStart are emitted in order, each at its last byte and with
`reserved` cleared, whatever bytes their bodies and CRCs hold; nothing else is emitted and the parser ends in WaitStart. -/
def Obligations.EncodedFramesAreReceivedInOrder : Prop :=
  ∀ (s : State) (segs : List (List Byte × Frame)) (rest : List (List Byte)), s.P.st = .waitStart →
    (∀ g ∈ segs, ∀ b ∈ g.1, b ≠ 0xAA) →
    s.calls = feedCalls (segs.flatMap (fun g => g.1 ++ (encodeFrame g.2).toList)) ++ rest →
    ∃ t : State,
      Sys2Proof.core.run (segs.flatMap (fun g => g.1 ++ (encodeFrame g.2).toList)).length s = .next t ∧
      t.P.st = .waitStart ∧ t.calls = rest ∧ t.myAddress = s.myAddress ∧
      t.trace = s.trace ++ segs.flatMap (fun g =>
        List.replicate (g.1.length + 27) (fedOutput none) ++ [fedOutput (some { g.2 with reserved := 0x00 })])

/-- 42_parser.md, derived stream properties, point 3: 28 bytes that start with 0xAA and fail the validity check emit
nothing and leave the parser in WaitStart, so a valid frame after them is received. -/
def Obligations.CorruptionOfEqualLengthCostsOnlyItsOwnFrame : Prop :=
  ∀ (s : State) (w : Bytes 28) (g : Frame), s.P.st = .waitStart → w.get 0 = 0xAA → validFrame w = false →
    s.calls = feedCalls (w.toList ++ (encodeFrame g).toList) →
    ∃ t : State, Sys2Proof.core.run 56 s = .next t ∧ t.P.st = .waitStart ∧
      t.trace = s.trace ++ List.replicate 55 (fedOutput none) ++ [fedOutput (some { g with reserved := 0x00 })]

/-- 42_parser.md, derived stream properties, point 4 (a) (the failing byte is consumed: spec decision D8): after 27 bytes
that start with 0xAA, a frame one byte short, the start byte of the next frame is consumed as the failing end byte; a next
frame that holds no further 0xAA is lost whole, and the parser ends in WaitStart. -/
def Obligations.ATruncatedFrameCostsTheNextFrame : Prop :=
  ∀ (s : State) (short : List Byte) (g : Frame), s.P.st = .waitStart → short.length = 26 →
    (∀ b ∈ (encodeFrame g).toList.tail, b ≠ 0xAA) →
    s.calls = feedCalls (0xAA :: short ++ (encodeFrame g).toList) →
    ∃ t : State, Sys2Proof.core.run 55 s = .next t ∧ t.P.st = .waitStart ∧
      t.trace = s.trace ++ List.replicate 55 (fedOutput none)

/-- 42_parser.md, derived stream properties, point 3, CRC sensitivity: an encoded frame with any one of the 192 bits of its
body flipped is rejected: no byte of it emits a frame. -/
def Obligations.EverySingleBitFlipOfABodyIsRejected : Prop :=
  ∀ (s : State) (f : Frame) (k j : Nat) (hk : k < 24), s.P.st = .waitStart → j < 8 →
    s.calls = feedCalls ((encodeFrame f).set (k + 1)
      ((encodeFrame f).get (k + 1) (by omega) ^^^ (0x01#8 <<< j))).toList →
    ∃ t : State, Sys2Proof.core.run 28 s = .next t ∧ t.P.st = .waitStart ∧
      t.trace = s.trace ++ List.replicate 28 (fedOutput none)

/-- 42_parser.md, derived stream properties, point 5: an encoded frame with its two CRC bytes exchanged is dropped exactly
when the two bytes differ. -/
def Obligations.ExchangedCrcBytesAreDroppedExactlyWhenTheyDiffer : Prop :=
  ∀ (s : State) (f : Frame), s.P.st = .waitStart →
    s.calls = feedCalls (((encodeFrame f).set 25 ((encodeFrame f).get 26)).set 26 ((encodeFrame f).get 25)).toList →
    ∃ t : State, Sys2Proof.core.run 28 s = .next t ∧ t.P.st = .waitStart ∧
      t.trace = s.trace ++ List.replicate 27 (fedOutput none) ++
        [fedOutput (if (encodeFrame f).get 25 = (encodeFrame f).get 26 then some { f with reserved := 0x00 } else none)]

/-- 44_router.md, the receive data flow on a whole frame: a node in WaitStart that receives the 28 bytes of ENCODE(f), one
RX_STEP per byte, reports nothing for the first 27 and for the last exactly what ROUTE gives for the frame with `reserved`
cleared if it is addressed to the node or to broadcast, and nothing otherwise; an accepted SET_ADDRESS is adopted. -/
def Obligations.NodeReceivesAnEncodedFrame : Prop :=
  ∀ (s : State) (f : Frame) (rest : List (List Byte)), s.cfg.wf = true → s.P.st = .waitStart →
    s.calls = rxCalls (encodeFrame f).toList ++ rest →
    ∃ t : State, Sys2Proof.core.run 28 s = .next t ∧ t.P.st = .waitStart ∧ t.calls = rest ∧
      t.trace = s.trace ++ List.replicate 27 (rxOutput []) ++
        [rxOutput (if f.address = s.myAddress ∨ f.address = 0xFE
          then route s.cfg (s.ctx s.myAddress) { f with reserved := 0x00 } else [])] ∧
      t.myAddress =
        (if (f.address = s.myAddress ∨ f.address = 0xFE) ∧ f.deviceCommand = s.cfg.cmdSetAddress ∧
            f.parameters.get 0 ≠ 0x00 ∧ f.parameters.get 0 ≠ 0xFF
         then f.parameters.get 0 else s.myAddress)

/-- 30_encoding.md, textual notation (spec decision D26; log entry 15): `SEND` is Tx(ENCODE(f)) for a frame in range and
refused for one out of range; `HELLO` is Tx(ENCODE(MAKE_HELLO)) for the node's current address; neither changes the
parser or the address. -/
def Obligations.SendAndHelloLinesTransmitOneEncodedFrame : Prop :=
  ∀ (s : State),
    (∀ w : WideFrame, w.inRange = true →
      runLine (.send w) s = .next (s.report (.wire (encodeFrame w.narrow)) [.tx (encodeFrame w.narrow)])) ∧
    (∀ w : WideFrame, w.inRange = false → runLine (.send w) s = .refused .fieldOutOfRange) ∧
    (s.cfg.wf = true → ∃ f : Frame, exec (.makeHello s.myAddress) s = .next (s.report (.frame f) []) ∧
      runLine .hello s = .next (s.report (.wire (encodeFrame f)) [.tx (encodeFrame f)]))
end

