-- ==== Sys2Proof/Laws/Bytes.lean ====
section
/-! SUPPORT. The laws of fixed-length arrays: read after write, and the lists behind the codec's arrays. -/

namespace Sys2Proof

variable {α : Type} {n : Nat}

@[simp] theorem Arr.toList_set (a : Arr α n) (i : Nat) (x : α) : (a.set i x).toList = a.toList.set i x := rfl

@[simp] theorem Arr.toList_slice (a : Arr α n) (lo len : Nat) (h : lo + len ≤ n) :
    (a.slice lo len h).toList = (a.toList.drop lo).take len := rfl

@[simp] theorem Bytes.toList_zeros (k : Nat) : (Bytes.zeros k).toList = List.replicate k 0x00 := rfl

theorem Arr.get_set_same (a : Arr α n) (i : Nat) (x : α) (h : i < n) : (a.set i x).get i h = x := by
  simp [Arr.get, Arr.set]

theorem Arr.get_set_other (a : Arr α n) (i j : Nat) (x : α) (h : j < n) (hne : i ≠ j) :
    (a.set i x).get j h = a.get j h := by
  simp [Arr.get, Arr.set, hne]

namespace Machine

@[simp] theorem toList_bodyOf (f : Frame) :
    (bodyOf f).toList = [f.address, f.serverCommand, f.deviceCommand] ++ f.parameters.toList ++ [f.reserved] := rfl

@[simp] theorem toList_wireOf (body : Bytes 24) (lo hi : Byte) :
    (wireOf body lo hi).toList = [0xAA] ++ body.toList ++ [lo, hi] ++ [0x55] := rfl

/-- The two CRC bytes of a wire frame join to the CRC they were cut from (20_memory.md R22). -/
@[simp] theorem joinCrc_low_high (c : U16) : joinCrc (crcLow c) (crcHigh c) = c := by
  unfold joinCrc crcLow crcHigh
  ext i hi
  simp only [BitVec.getElem_or, BitVec.getElem_setWidth, BitVec.getElem_shiftLeft, BitVec.getLsbD_extractLsb']
  by_cases h : i < 8
  · simp [h, BitVec.getLsbD_eq_getElem hi]
  · have h8 : i - 8 < 8 := by omega
    have h' : 8 + (i - 8) = i := by omega
    simp [h, h', h8, BitVec.getLsbD_eq_getElem hi]

end Machine

end Sys2Proof
end

