-- ==== Sys2Proof/Laws/State.lean ====
section
/-! SUPPORT. One lemma per field per update of State and of the Parser State, true by unfolding, so that no later proof
unfolds a record update. -/

namespace Sys2Proof.Machine

section report
variable (s : State) (r : Result) (evs : List Event)
@[simp] theorem State.report_P : (s.report r evs).P = s.P := rfl
@[simp] theorem State.report_myAddress : (s.report r evs).myAddress = s.myAddress := rfl
@[simp] theorem State.report_cfg : (s.report r evs).cfg = s.cfg := rfl
@[simp] theorem State.report_deviceType : (s.report r evs).deviceType = s.deviceType := rfl
@[simp] theorem State.report_hwId : (s.report r evs).hwId = s.hwId := rfl
@[simp] theorem State.report_calls : (s.report r evs).calls = s.calls := rfl
@[simp] theorem State.report_draws : (s.report r evs).draws = s.draws := rfl
@[simp] theorem State.report_trace :
    (s.report r evs).trace = s.trace ++ [{ result := r, events := evs }] := rfl
end report

section hostReset
variable (s : State) (load : Option Byte)
@[simp] theorem State.hostReset_P : (s.hostReset load).P = drawnParser s.draws := rfl
@[simp] theorem State.hostReset_myAddress : (s.hostReset load).myAddress = load.getD 0x00 := rfl
@[simp] theorem State.hostReset_cfg : (s.hostReset load).cfg = s.cfg := rfl
@[simp] theorem State.hostReset_deviceType : (s.hostReset load).deviceType = s.deviceType := rfl
@[simp] theorem State.hostReset_hwId : (s.hostReset load).hwId = s.hwId := rfl
@[simp] theorem State.hostReset_calls : (s.hostReset load).calls = s.calls := rfl
@[simp] theorem State.hostReset_trace : (s.hostReset load).trace = s.trace := rfl
@[simp] theorem State.hostReset_draws : (s.hostReset load).draws = s.draws + 1 := rfl
@[simp] theorem drawnParser_st (n : Nat) : (drawnParser n).st = .waitStart := rfl
end hostReset

section ctx
variable (s : State) (m : Byte)
@[simp] theorem State.ctx_myAddress : (s.ctx m).myAddress = m := rfl
@[simp] theorem State.ctx_deviceType : (s.ctx m).deviceType = s.deviceType := rfl
@[simp] theorem State.ctx_hwId : (s.ctx m).hwId = s.hwId := rfl
end ctx

section parser
variable (P : ParserState)
@[simp] theorem toWaitStart_st : (toWaitStart P).st = .waitStart := rfl
@[simp] theorem toWaitStart_buf : (toWaitStart P).buf = P.buf := rfl
@[simp] theorem toWaitStart_idx : (toWaitStart P).idx = P.idx := rfl
@[simp] theorem toWaitStart_rxCrc : (toWaitStart P).rxCrc = P.rxCrc := rfl
@[simp] theorem beginFrame_st : (beginFrame P).st = .readFrame := rfl
@[simp] theorem beginFrame_buf : (beginFrame P).buf = P.buf := rfl
@[simp] theorem beginFrame_idx : (beginFrame P).idx = 0 := rfl
@[simp] theorem beginFrame_rxCrc : (beginFrame P).rxCrc = 0x0000 := rfl
end parser

section fetch
variable (s : State) (r : List Byte)

theorem takeCall_nil {s : State} (h : s.calls = []) : takeCall s = none := by simp [takeCall, h]

theorem takeCall_cons {s : State} {r : List Byte} {rest : List (List Byte)} (h : s.calls = r :: rest) :
    takeCall s = some (r, { s with calls := rest }) := by simp [takeCall, h]

@[simp] theorem takeCall_presentCall : takeCall (presentCall s r) = some (r, s) := rfl
end fetch

end Sys2Proof.Machine
end

