-- ==== Sys2Proof/Laws/Parser.lean ====
section
/-! SUPPORT. What a FEED can do: one equation per parser state, the case lemma that says everything a FEED can do, and
the composition of feeds. -/

namespace Sys2Proof.Machine

variable {P : ParserState} {b : Byte}

theorem feed_of_waitStart (h : P.st = .waitStart) : feed P b = feedWaitStart P b := by
  simp [feed, h]

theorem feed_of_readFrame (h : P.st = .readFrame) : feed P b = feedReadFrame P b := by
  simp [feed, h]

theorem feed_of_readCrcLow (h : P.st = .readCrcLow) : feed P b = feedReadCrcLow P b := by
  simp [feed, h]

theorem feed_of_readCrcHigh (h : P.st = .readCrcHigh) : feed P b = feedReadCrcHigh P b := by
  simp [feed, h]

theorem feed_of_waitEnd (h : P.st = .waitEnd) : feed P b = feedWaitEnd P b := by
  simp [feed, h]

/-- The index bound of a parser in ReadFrame. -/
theorem idx_lt_of_readFrame (h : P.st = .readFrame) : P.idx.val < 24 := by
  have hf := P.fits
  rw [h] at hf
  simpa [indexFits] using hf

/-- ReadFrame, said field by field. -/
theorem feedReadFrame_spec (h : P.st = .readFrame) (b : Byte) :
    (feedReadFrame P b).2 = none ∧
    (feedReadFrame P b).1.buf = P.buf.set P.idx.val b ∧
    (feedReadFrame P b).1.idx.val = P.idx.val + 1 ∧
    (feedReadFrame P b).1.rxCrc = P.rxCrc ∧
    (feedReadFrame P b).1.st = (if P.idx.val + 1 = 24 then .readCrcLow else .readFrame) := by
  have hi := idx_lt_of_readFrame h
  unfold feedReadFrame
  split
  case isTrue hlt => simp; omega
  case isFalse hlt =>
    have h24 : P.idx.val + 1 = 24 := by omega
    simp [h24]

/-- Everything a FEED can do, one case per row of the table. -/
theorem feed_cases (P : ParserState) (b : Byte) :
    (P.st = .waitStart ∧ b = 0xAA ∧ feed P b = (beginFrame P, none)) ∨
    (P.st = .waitStart ∧ b ≠ 0xAA ∧ feed P b = (P, none)) ∨
    (P.st = .readFrame ∧ feed P b = feedReadFrame P b) ∨
    (P.st = .readCrcLow ∧ feed P b = feedReadCrcLow P b) ∨
    (P.st = .readCrcHigh ∧ feed P b = feedReadCrcHigh P b) ∨
    (P.st = .waitEnd ∧ b = 0x55 ∧ crc16 P.buf.toList = P.rxCrc ∧ feed P b = (toWaitStart P, some (unpack P.buf))) ∨
    (P.st = .waitEnd ∧ (b ≠ 0x55 ∨ crc16 P.buf.toList ≠ P.rxCrc) ∧ feed P b = (toWaitStart P, none)) := by
  cases hst : P.st with
  | waitStart =>
    rw [feed_of_waitStart hst, feedWaitStart]
    by_cases hb : b = 170#8 <;> simp [hb, startByte]
  | readFrame => simp [feed_of_readFrame hst]
  | readCrcLow => simp [feed_of_readCrcLow hst]
  | readCrcHigh => simp [feed_of_readCrcHigh hst]
  | waitEnd =>
    rw [feed_of_waitEnd hst, feedWaitEnd]
    by_cases hb : b = 85#8 <;> by_cases hc : crc16 P.buf.toList = P.rxCrc <;>
      simp [hb, hc, endByte, crcMatches, feedAccept, feedDrop]

@[simp] theorem feedAll_nil (P : ParserState) : feedAll P [] = (P, []) := rfl

theorem feedAll_cons (P : ParserState) (b : Byte) (l : List Byte) :
    feedAll P (b :: l) = ((feedAll (feed P b).1 l).1, (feed P b).2 :: (feedAll (feed P b).1 l).2) := rfl

theorem feedAll_append (P : ParserState) (l₁ l₂ : List Byte) :
    feedAll P (l₁ ++ l₂) =
      ((feedAll (feedAll P l₁).1 l₂).1, (feedAll P l₁).2 ++ (feedAll (feedAll P l₁).1 l₂).2) := by
  induction l₁ generalizing P with
  | nil => simp
  | cons b l ih => simp [feedAll_cons, ih]

@[simp] theorem feedAll_length (P : ParserState) (l : List Byte) : (feedAll P l).2.length = l.length := by
  induction l generalizing P with
  | nil => rfl
  | cons b l ih => simp [feedAll_cons, ih]

/-- Body bytes that do not yet complete the body are stored in arrival order. -/
theorem feedAll_readFrame (l : List Byte) (P : ParserState) (h : P.st = .readFrame) (hl : P.idx.val + l.length < 24) :
    (feedAll P l).1.st = .readFrame ∧ (feedAll P l).1.idx.val = P.idx.val + l.length ∧
    (feedAll P l).1.rxCrc = P.rxCrc ∧ (feedAll P l).2 = List.replicate l.length none ∧
    (feedAll P l).1.buf.toList =
      P.buf.toList.take P.idx.val ++ l ++ P.buf.toList.drop (P.idx.val + l.length) := by
  induction l generalizing P with
  | nil => simp [h]
  | cons b l ih =>
    obtain ⟨hr, hb, hi, hc, hs⟩ := feedReadFrame_spec h b
    simp only [List.length_cons] at hl
    have hs' : (feed P b).1.st = .readFrame := by
      rw [feed_of_readFrame h, hs, if_neg (by omega)]
    have hi' : (feed P b).1.idx.val = P.idx.val + 1 := by rw [feed_of_readFrame h, hi]
    obtain ⟨h1, h2, h3, h4, h5⟩ := ih (feed P b).1 hs' (by omega)
    rw [feedAll_cons]
    refine ⟨h1, by simp only [h2, hi', List.length_cons]; omega, ?_, ?_, ?_⟩
    · rw [h3, feed_of_readFrame h, hc]
    · rw [h4, feed_of_readFrame h, hr, List.length_cons, List.replicate_succ]
    · have hlen : P.idx.val < P.buf.toList.length := by rw [P.buf.size]; omega
      rw [h5, hi', feed_of_readFrame h, hb]
      simp only [Arr.toList_set, List.length_cons]
      rw [List.drop_set_of_lt (by omega), List.take_set]
      have ht : (P.buf.toList.take (P.idx.val + 1)).set P.idx.val b = P.buf.toList.take P.idx.val ++ [b] := by
        rw [List.take_succ_eq_append_getElem hlen]
        rw [List.set_append_right _ _ (by simp)]
        simp [Nat.min_eq_left (by omega : P.idx.val ≤ 24)]
      rw [ht]
      simp [Nat.add_assoc, Nat.add_comm 1]

end Sys2Proof.Machine
end

