-- ==== Sys2Proof/Laws/Ops.lean ====
section
/-! SUPPORT. What the shared operations can do when they answer a next state, and what an instruction can do: one lemma
each, which later proofs cite instead of unfolding. -/

namespace Sys2Proof.Machine

variable {s t : State}

theorem withCfg_eq_next {k : Step} : withCfg s k = .next t ↔ s.cfg.wf = true ∧ k = .next t := by
  unfold withCfg; split <;> simp_all

theorem whenSelected_eq_next {i : Instr} {n : String} {k : Step} :
    whenSelected i n s k = .next t ↔ selected i s = true ∧ k = .next t := by
  unfold whenSelected; split <;> simp_all

theorem atMoment_eq_next {x : Moment} {k : Step} : atMoment x k = .next t ↔ x = .between ∧ k = .next t := by
  cases x <;> simp [atMoment, momentRefusal]

theorem complete_eq_next {r : Result} {evs : List Event} : s.complete r evs = .next t ↔ t = s.report r evs := by
  simp [State.complete, eq_comm]

theorem fed_eq_next {r : ParserState × Option Frame} :
    s.fed r = .next t ↔ t = { s with P := r.1 }.report (.fed r.2) [] := by
  simp [State.fed, eq_comm]

theorem received_eq_next {r : ParserState × Byte × List Event} :
    s.received r = .next t ↔ t = { s with P := r.1, myAddress := r.2.1 }.report .done r.2.2 := by
  simp [State.received, eq_comm]

/-- The codes of a well-formed `Cfg` are in the core range and pairwise distinct (00_scope.md R5). -/
theorem wf_codes {c : Cfg} (h : c.wf = true) :
    (classify c.cmdHello = .core ∧ classify c.cmdAck = .core ∧ classify c.cmdPing = .core ∧
      classify c.cmdReset = .core ∧ classify c.cmdSetAddress = .core) ∧
    [c.cmdHello, c.cmdAck, c.cmdPing, c.cmdReset, c.cmdSetAddress].Nodup := by
  simp only [Cfg.wf, List.all_cons, List.all_nil, Bool.and_true, Bool.and_eq_true, decide_eq_true_eq] at h
  obtain ⟨h, hn⟩ := h
  refine ⟨?_, hn⟩
  have core : ∀ x : Byte, 1#8 ≤ x → x ≤ 63#8 → classify x = .core := by
    intro x h1 h2
    have h0 : x ≠ 0#8 := by rintro rfl; exact absurd h1 (by decide)
    simp [classify, h0, h1, h2]
  exact ⟨core _ h.1.1 h.1.2, core _ h.2.1.1 h.2.1.2, core _ h.2.2.1.1 h.2.2.1.2, core _ h.2.2.2.1.1 h.2.2.2.1.2,
    core _ h.2.2.2.2.1 h.2.2.2.2.2⟩

/-- Everything ROUTE can give: the arms of 44_router.md R75 to R82. -/
theorem route_cases (cfg : Cfg) (ctx : Ctx) (f : Frame) :
    (route cfg ctx f = [.pingRecognized f] ∧ f.deviceCommand = cfg.cmdPing) ∨
    (route cfg ctx f = [.hostResetRequest] ∧ f.deviceCommand = cfg.cmdReset) ∨
    (route cfg ctx f = routeSetAddress cfg ctx f ∧ f.deviceCommand = cfg.cmdSetAddress ∧
      rejectedAddress (f.parameters.get 0) = false) ∨
    (route cfg ctx f = [] ∧ (f.deviceCommand = cfg.cmdSetAddress ∨ f.deviceCommand = cfg.cmdHello ∨
      f.deviceCommand = cfg.cmdAck)) ∨
    (route cfg ctx f = [.appHandle f]) := by
  unfold route
  by_cases hc : classify f.deviceCommand = .core
  · simp only [hc, if_true]
    by_cases h1 : f.deviceCommand = cfg.cmdPing
    · left; simp [h1, routePing]
    by_cases h2 : f.deviceCommand = cfg.cmdReset
    · right; left; rw [if_neg h1, if_pos h2]; exact ⟨rfl, h2⟩
    by_cases h3 : f.deviceCommand = cfg.cmdSetAddress
    · by_cases hr : rejectedAddress (f.parameters.get 0) = true
      · right; right; right; left; rw [if_neg h1, if_neg h2, if_pos h3, if_pos hr]; exact ⟨rfl, .inl h3⟩
      · right; right; left
        rw [if_neg h1, if_neg h2, if_pos h3, if_neg hr]
        exact ⟨rfl, h3, by simpa using hr⟩
    by_cases h4 : f.deviceCommand = cfg.cmdHello
    · right; right; right; left
      rw [if_neg h1, if_neg h2, if_neg h3, if_pos h4]; exact ⟨rfl, .inr (.inl h4)⟩
    by_cases h5 : f.deviceCommand = cfg.cmdAck
    · right; right; right; left
      rw [if_neg h1, if_neg h2, if_neg h3, if_neg h4, if_pos h5]; exact ⟨rfl, .inr (.inr h5)⟩
    · right; right; right; right; simp only [if_neg h1, if_neg h2, if_neg h3, if_neg h4, if_neg h5, routeForward]
  · right; right; right; right; simp only [if_neg hc, routeForward]

/-- A FEED row that runs does what FEED does with that byte. -/
theorem feedRow_next {i : Instr} (h : exec i s = .next t)
    (hi : i = .feedWaitStartStart ∨ (∃ b, i = .feedWaitStartSkip b) ∨ (∃ b, i = .feedReadFrame b) ∨
      (∃ b, i = .feedReadCrcLow b) ∨ (∃ b, i = .feedReadCrcHigh b) ∨ i = .feedWaitEndAccept ∨
      (∃ b, i = .feedWaitEndBadEnd b) ∨ i = .feedWaitEndBadCrc) :
    ∃ b, t = { s with P := (feed s.P b).1 }.report (.fed (feed s.P b).2) [] := by
  rcases hi with rfl | ⟨b, rfl⟩ | ⟨b, rfl⟩ | ⟨b, rfl⟩ | ⟨b, rfl⟩ | rfl | ⟨b, rfl⟩ | rfl <;>
    simp only [exec, execFeedWaitStartStart, execFeedWaitStartSkip, execFeedReadFrame, execFeedReadCrcLow,
      execFeedReadCrcHigh, execFeedWaitEndAccept, execFeedWaitEndBadEnd, execFeedWaitEndBadCrc,
      whenSelected_eq_next, fed_eq_next, selected, Bool.and_eq_true, beq_iff_eq, bne_iff_ne, Bool.not_eq_true'] at h
  · exact ⟨startByte, by rw [feed_of_waitStart h.1]; exact h.2⟩
  · exact ⟨b, by rw [feed_of_waitStart h.1.1]; exact h.2⟩
  · exact ⟨b, by rw [feed_of_readFrame h.1]; exact h.2⟩
  · exact ⟨b, by rw [feed_of_readCrcLow h.1]; exact h.2⟩
  · exact ⟨b, by rw [feed_of_readCrcHigh h.1]; exact h.2⟩
  · exact ⟨endByte, by rw [feed_of_waitEnd h.1.1, feedWaitEnd, if_pos ⟨rfl, h.1.2⟩]; exact h.2⟩
  · exact ⟨b, by rw [feed_of_waitEnd h.1.1, feedWaitEnd, if_neg (fun hb => h.1.2 hb.1)]; exact h.2⟩
  · exact ⟨endByte, by
      rw [feed_of_waitEnd h.1.1, feedWaitEnd, if_neg (fun hb => by simp [h.1.2] at hb)]; exact h.2⟩

/-- The events a router row reports are those ROUTE gives for its frame, where the configuration is well formed. -/
theorem routerRow_next {i : Instr} {m : Byte} {f : Frame} (h : exec i s = .next t)
    (hi : i ∈ [Instr.corePing m f, .coreReset m f, .coreSetAddressValid m f, .coreSetAddressInvalid m f,
      .coreHello m f, .coreAck m f, .coreUnrecognized m f, .routeForward m f]) :
    s.cfg.wf = true ∧ t = s.report .done (route s.cfg (s.ctx m) f) := by
  simp only [List.mem_cons, List.not_mem_nil, or_false] at hi
  rcases hi with rfl | rfl | rfl | rfl | rfl | rfl | rfl | rfl <;>
    simp only [exec, execCorePing, execCoreReset, execCoreSetAddressValid, execCoreSetAddressInvalid, execCoreHello,
      execCoreAck, execCoreUnrecognized, execRouteForward, withCfg_eq_next, whenSelected_eq_next, complete_eq_next,
      selected, Bool.and_eq_true, beq_iff_eq, bne_iff_ne, ne_eq, Bool.not_eq_true'] at h <;>
    refine ⟨h.1, ?_⟩ <;> obtain ⟨⟨hh, ha, hp, hr, hs⟩, hn⟩ := wf_codes h.1 <;>
    simp only [List.nodup_cons, List.mem_cons, List.not_mem_nil, or_false, not_or, not_false_eq_true,
      List.nodup_nil, and_true] at hn <;>
    obtain ⟨⟨n1, n2, n3, n4⟩, ⟨n5, n6, n7⟩, ⟨n8, n9⟩, n10⟩ := hn <;> obtain ⟨-, hsel, ht⟩ := h
  · simp [ht, route, hsel, hp]
  · simp [ht, route, hsel, hr, Ne.symm n8]
  · simp [ht, route, hsel.1, hs, hsel.2, Ne.symm n9, Ne.symm n10]
  · simp [ht, route, hsel.1, hs, hsel.2, Ne.symm n9, Ne.symm n10]
  · simp [ht, route, hsel, hh, n2, n3, n4]
  · simp [ht, route, hsel, ha, n5, n6, n7, Ne.symm n1]
  · simp only [Cfg.isCode, Bool.or_eq_false_iff, beq_eq_false_iff_ne, ne_eq] at hsel
    simp [ht, route, hsel]
  · simp [ht, route, hsel]

/-- Everything an instruction can do when it answers a next state: nothing but report (with no event, or with the events
ROUTE gives for some frame), one FEED transition, one RX_STEP, or a host reset. -/
theorem exec_cases {i : Instr} (h : exec i s = .next t) :
    (∃ r, t = s.report r []) ∨
    (∃ m f, s.cfg.wf = true ∧ t = s.report .done (route s.cfg (s.ctx m) f)) ∨
    (∃ b, t = { s with P := (feed s.P b).1 }.report (.fed (feed s.P b).2) []) ∨
    (∃ b, i = .rxStep .between b ∧ s.cfg.wf = true ∧
      s.received (rxStep s.cfg s.P (s.ctx s.myAddress) b) = .next t) ∨
    (∃ load, i = .reset load ∧ t = (s.hostReset load).report .done []) := by
  cases i with
  | feedWaitStartStart | feedWaitStartSkip | feedReadFrame | feedReadCrcLow | feedReadCrcHigh | feedWaitEndAccept
  | feedWaitEndBadEnd | feedWaitEndBadCrc => exact .inr (.inr (.inl (feedRow_next h (by simp))))
  | corePing m f | coreReset m f | coreSetAddressValid m f | coreSetAddressInvalid m f | coreHello m f | coreAck m f
  | coreUnrecognized m f | routeForward m f =>
    exact .inr (.inl ⟨m, f, routerRow_next h (by simp)⟩)
  | classAbsent => exact .inl ⟨_, complete_eq_next.mp h⟩
  | classCore | classServerCmd | classDeviceEvent | rxStepNotForMe =>
    exact .inl ⟨_, complete_eq_next.mp (whenSelected_eq_next.mp h).2⟩
  | crc16 | unpack | classify | isForMe => exact .inl ⟨_, complete_eq_next.mp h⟩
  | encodeFrame f =>
    simp only [exec, execEncodeFrame] at h
    split at h
    · exact .inl ⟨_, complete_eq_next.mp h⟩
    · cases h
  | makeHello m => exact .inl ⟨_, complete_eq_next.mp (withCfg_eq_next.mp h).2⟩
  | route m f =>
    obtain ⟨hw, hk⟩ := withCfg_eq_next.mp h
    exact .inr (.inl ⟨m, f, hw, complete_eq_next.mp hk⟩)
  | feed x b =>
    obtain ⟨-, hk⟩ := atMoment_eq_next.mp h
    exact .inr (.inr (.inl ⟨b, fed_eq_next.mp hk⟩))
  | rxStep x b =>
    obtain ⟨rfl, hk⟩ := atMoment_eq_next.mp h
    obtain ⟨hw, hk⟩ := withCfg_eq_next.mp hk
    exact .inr (.inr (.inr (.inl ⟨b, rfl, hw, hk⟩)))
  | reset load => exact .inr (.inr (.inr (.inr ⟨load, rfl, complete_eq_next.mp h⟩)))

end Sys2Proof.Machine
end

