-- ==== Sys2Proof/Laws/Machine.lean ====
section
/-! SUPPORT. What a step can do, and what a run over a sequence of fed bytes is. -/

namespace Sys2Proof.Machine

variable {s t : State}

/-- Everything a step can do when it answers a next state. -/
theorem step_cases (h : step s = .next t) :
    (s.calls = [] ∧ t = s) ∨
    (∃ r rest i, s.calls = r :: rest ∧ decode r = .ok i ∧ exec i { s with calls := rest } = .next t) := by
  unfold step at h
  cases hc : s.calls with
  | nil =>
    rw [takeCall_nil hc] at h
    exact .inl ⟨rfl, by simpa using h.symm⟩
  | cons r rest =>
    rw [takeCall_cons hc] at h
    cases hd : decode r with
    | error e => simp [hd] at h
    | ok i => exact .inr ⟨r, rest, i, rfl, hd, by simpa [hd] using h⟩

theorem step_of_call {r : List Byte} {rest : List (List Byte)} {i : Instr} (hc : s.calls = r :: rest)
    (hd : decode r = .ok i) : step s = exec i { s with calls := rest } := by
  simp [step, takeCall_cons hc, hd]

@[simp] theorem decode_feedCall (x : Moment) (b : Byte) : decode (encode (.feed x b)) = .ok (.feed x b) := by
  cases x <;> rfl

@[simp] theorem decode_rxCall (x : Moment) (b : Byte) : decode (encode (.rxStep x b)) = .ok (.rxStep x b) := by
  cases x <;> rfl

theorem run_succ_of_next {n : Nat} (h : step s = .next t) :
    Sys2Proof.core.run (n + 1) s = Sys2Proof.core.run n t := by
  have h' : Sys2Proof.core.step s = .next t := h
  simp only [Host.Core.run]
  rw [h']

theorem run_succ_of_refused {n : Nat} {r : Refusal} (h : step s = .refused r) :
    Sys2Proof.core.run (n + 1) s = .refused r := by
  have h' : Sys2Proof.core.step s = .refused r := h
  simp only [Host.Core.run]
  rw [h']

/-- Feeding a byte sequence, one FEED per byte: the parser does `feedAll`, and each byte reports what it returned. -/
theorem run_feedCalls (bytes : List Byte) (s : State) (rest : List (List Byte))
    (hc : s.calls = feedCalls bytes ++ rest) :
    Sys2Proof.core.run bytes.length s = .next
      { s with P := (feedAll s.P bytes).1, calls := rest,
               trace := s.trace ++ (feedAll s.P bytes).2.map fedOutput } := by
  induction bytes generalizing s with
  | nil =>
    obtain rfl : s.calls = rest := by simpa [feedCalls] using hc
    simp [Host.Core.run]
  | cons b l ih =>
    have hc' : s.calls = encode (.feed .between b) :: (feedCalls l ++ rest) := by simpa [feedCalls] using hc
    have hs : step s = .next ({ s with calls := feedCalls l ++ rest, P := (feed s.P b).1 }.report
        (.fed (feed s.P b).2) []) := by
      rw [step_of_call hc' (decode_feedCall _ _)]; rfl
    rw [List.length_cons, run_succ_of_next hs, ih _ rfl]
    simp [feedAll_cons, fedOutput]

end Sys2Proof.Machine
end

