-- ==== Sys2Proof/Laws/PerInstr.lean ====
section
/-! SUPPORT. The per-instruction family RecordShape: the record of an instruction is its lead byte, its row's number and
its operand bytes, and the row number is that of its constructor, so no encoded record is a bare table word. -/

namespace Sys2Proof.Laws.RecordShape

/-- The record has the row number, between 1 and 31, in second place. -/
def Statement (i : Instr) : Prop :=
  (encode i)[1]? = some (rowNumber i) ∧ 1 ≤ (rowNumber i).toNat ∧ (rowNumber i).toNat ≤ 31

theorem feedWaitStartStart : Statement .feedWaitStartStart := by simp [Statement, encode, rowNumber]
theorem feedWaitStartSkip (b : Byte) : Statement (.feedWaitStartSkip b) := by simp [Statement, encode, rowNumber]
theorem feedReadFrame (b : Byte) : Statement (.feedReadFrame b) := by simp [Statement, encode, rowNumber]
theorem feedReadCrcLow (b : Byte) : Statement (.feedReadCrcLow b) := by simp [Statement, encode, rowNumber]
theorem feedReadCrcHigh (b : Byte) : Statement (.feedReadCrcHigh b) := by simp [Statement, encode, rowNumber]
theorem feedWaitEndAccept : Statement .feedWaitEndAccept := by simp [Statement, encode, rowNumber]
theorem feedWaitEndBadEnd (b : Byte) : Statement (.feedWaitEndBadEnd b) := by simp [Statement, encode, rowNumber]
theorem feedWaitEndBadCrc : Statement .feedWaitEndBadCrc := by simp [Statement, encode, rowNumber]
theorem classAbsent : Statement .classAbsent := by simp [Statement, encode, rowNumber]
theorem classCore (c : Byte) : Statement (.classCore c) := by simp [Statement, encode, rowNumber]
theorem classServerCmd (c : Byte) : Statement (.classServerCmd c) := by simp [Statement, encode, rowNumber]
theorem classDeviceEvent (c : Byte) : Statement (.classDeviceEvent c) := by simp [Statement, encode, rowNumber]
theorem corePing (m : Byte) (f : Frame) : Statement (.corePing m f) := by simp [Statement, encode, rowNumber]
theorem coreReset (m : Byte) (f : Frame) : Statement (.coreReset m f) := by simp [Statement, encode, rowNumber]
theorem coreSetAddressValid (m : Byte) (f : Frame) : Statement (.coreSetAddressValid m f) := by
  simp [Statement, encode, rowNumber]
theorem coreSetAddressInvalid (m : Byte) (f : Frame) : Statement (.coreSetAddressInvalid m f) := by
  simp [Statement, encode, rowNumber]
theorem coreHello (m : Byte) (f : Frame) : Statement (.coreHello m f) := by simp [Statement, encode, rowNumber]
theorem coreAck (m : Byte) (f : Frame) : Statement (.coreAck m f) := by simp [Statement, encode, rowNumber]
theorem coreUnrecognized (m : Byte) (f : Frame) : Statement (.coreUnrecognized m f) := by
  simp [Statement, encode, rowNumber]
theorem routeForward (m : Byte) (f : Frame) : Statement (.routeForward m f) := by simp [Statement, encode, rowNumber]
theorem rxStepNotForMe (a : Byte) : Statement (.rxStepNotForMe a) := by simp [Statement, encode, rowNumber]
theorem crc16 (bytes : List Byte) : Statement (.crc16 bytes) := by simp [Statement, encode, rowNumber]
theorem encodeFrame (f : WideFrame) : Statement (.encodeFrame f) := by simp [Statement, encode, rowNumber]
theorem unpack (b : Bytes 24) : Statement (.unpack b) := by simp [Statement, encode, rowNumber]
theorem feed (at_ : Moment) (b : Byte) : Statement (.feed at_ b) := by simp [Statement, encode, rowNumber]
theorem classify (c : Byte) : Statement (.classify c) := by simp [Statement, encode, rowNumber]
theorem isForMe (a m : Byte) : Statement (.isForMe a m) := by simp [Statement, encode, rowNumber]
theorem route (m : Byte) (f : Frame) : Statement (.route m f) := by simp [Statement, encode, rowNumber]
theorem makeHello (m : Byte) : Statement (.makeHello m) := by simp [Statement, encode, rowNumber]
theorem rxStep (at_ : Moment) (b : Byte) : Statement (.rxStep at_ b) := by simp [Statement, encode, rowNumber]
theorem reset (load : Option Byte) : Statement (.reset load) := by simp [Statement, encode, rowNumber]

end Sys2Proof.Laws.RecordShape
end

