-- ==== Sys2Proof/Laws/Receive.lean ====
section
/-! SUPPORT. What a node-level receive can do: the address predicates, RX_STEP by what FEED returned, and the address
after ROUTE's events. -/

namespace Sys2Proof.Machine

theorem isForMe_iff (a m : Byte) : isForMe a m = true ↔ a = m ∨ a = 0xFE := by
  simp only [isForMe, addrBroadcast, addrUnassigned, Bool.or_eq_true, Bool.and_eq_true, beq_iff_eq]
  constructor
  · rintro ((h | h) | ⟨rfl, rfl⟩)
    exacts [.inl h, .inr h, .inl rfl]
  · rintro (h | h)
    exacts [.inl (.inl h), .inl (.inr h)]

theorem rejectedAddress_iff (a : Byte) : rejectedAddress a = true ↔ a = 0x00 ∨ a = 0xFF := by
  simp [rejectedAddress, addrUnassigned, addrReserved]

theorem rejectedAddress_eq_false (a : Byte) : rejectedAddress a = false ↔ a ≠ 0x00 ∧ a ≠ 0xFF := by
  rw [← Bool.not_eq_true, rejectedAddress_iff, not_or]

/-- What it takes for FEED to return a frame, and what it then does. -/
theorem feed_some {P : ParserState} {b : Byte} {f : Frame} (h : (feed P b).2 = some f) :
    P.st = .waitEnd ∧ b = 0x55 ∧ crc16 P.buf.toList = P.rxCrc ∧ feed P b = (toWaitStart P, some f) ∧
      f = unpack P.buf := by
  rcases feed_cases P b with ⟨_, _, h'⟩ | ⟨_, _, h'⟩ | ⟨hs, h'⟩ | ⟨_, h'⟩ | ⟨_, h'⟩ | ⟨h1, h2, h3, h'⟩ | ⟨_, _, h'⟩ <;>
    rw [h'] at h
  · cases h
  · cases h
  · rw [(feedReadFrame_spec hs b).1] at h; cases h
  · cases h
  · cases h
  · cases h; exact ⟨h1, h2, h3, h', rfl⟩
  · cases h

theorem receive_of_forMe {cfg : Cfg} {ctx : Ctx} {f : Frame} (h : f.address = ctx.myAddress ∨ f.address = 0xFE) :
    receive cfg ctx f = (adopt ctx.myAddress (route cfg ctx f), route cfg ctx f) := by
  rw [receive, if_pos ((isForMe_iff _ _).mpr h)]

theorem receive_of_notForMe {cfg : Cfg} {ctx : Ctx} {f : Frame}
    (h : ¬ (f.address = ctx.myAddress ∨ f.address = 0xFE)) : receive cfg ctx f = (ctx.myAddress, []) := by
  rw [receive, if_neg (fun hm => h ((isForMe_iff _ _).mp hm))]

theorem rxStep_of_none {P : ParserState} {b : Byte} (cfg : Cfg) (ctx : Ctx) (h : (feed P b).2 = none) :
    rxStep cfg P ctx b = ((feed P b).1, ctx.myAddress, []) := by
  have hf : feed P b = ((feed P b).1, none) := by rw [← h]
  rw [rxStep, hf]

theorem rxStep_of_some {P : ParserState} {b : Byte} {f : Frame} (cfg : Cfg) (ctx : Ctx) (h : (feed P b).2 = some f) :
    rxStep cfg P ctx b = ((feed P b).1, receive cfg ctx f) := by
  have hf : feed P b = ((feed P b).1, some f) := by rw [← h]
  rw [rxStep, hf]

@[simp] theorem rxStep_P (cfg : Cfg) (P : ParserState) (ctx : Ctx) (b : Byte) :
    (rxStep cfg P ctx b).1 = (feed P b).1 := by
  cases hf : (feed P b).2 with
  | none => rw [rxStep_of_none _ _ hf]
  | some f => rw [rxStep_of_some _ _ hf]

theorem exec_rxStep {s : State} (h : s.cfg.wf = true) (b : Byte) :
    exec (.rxStep .between b) s = s.received (rxStep s.cfg s.P (s.ctx s.myAddress) b) := by
  simp [exec, execRxStep, atMoment, momentRefusal, withCfg, h]

/-- The address after ROUTE's events: an accepted SET_ADDRESS is the only one that changes it. -/
theorem adopt_route {cfg : Cfg} (hw : cfg.wf = true) (ctx : Ctx) (f : Frame) :
    adopt ctx.myAddress (route cfg ctx f) =
      if f.deviceCommand = cfg.cmdSetAddress ∧ f.parameters.get 0 ≠ 0x00 ∧ f.parameters.get 0 ≠ 0xFF
      then f.parameters.get 0 else ctx.myAddress := by
  obtain ⟨⟨_, _, _, _, hs⟩, hn⟩ := wf_codes hw
  simp only [List.nodup_cons, List.mem_cons, List.not_mem_nil, or_false, not_or, not_false_eq_true,
    List.nodup_nil, and_true] at hn
  obtain ⟨⟨_, _, _, n4⟩, ⟨_, _, n7⟩, ⟨_, n9⟩, n10⟩ := hn
  by_cases hc : f.deviceCommand = cfg.cmdSetAddress ∧ f.parameters.get 0 ≠ 0x00 ∧ f.parameters.get 0 ≠ 0xFF
  · rw [if_pos hc]
    have hr := (rejectedAddress_eq_false _).mpr hc.2
    simp [route, hc.1, hs, Ne.symm n9, Ne.symm n10, hr, routeSetAddress, adopt]
  · rw [if_neg hc]
    rcases route_cases cfg ctx f with ⟨h, _⟩ | ⟨h, _⟩ | ⟨_, hd, hr⟩ | ⟨h, _⟩ | h
    · rw [h]; rfl
    · rw [h]; rfl
    · exact absurd ⟨hd, (rejectedAddress_eq_false _).mp hr⟩ hc
    · rw [h]; rfl
    · rw [h]; rfl

end Sys2Proof.Machine
end

