-- ==== Sys2Proof/Tests/Slice0.lean ====
section
/-! SUPPORT. Tests and witnesses. Expected values are the spec's own vectors (95_test_vectors.md, the id is named beside
each test) or its rules' examples. The (T) vectors use the TEST-ONLY assignment T, which is that of `State.reset`. -/

namespace Sys2Proof.Tests

open Sys2Proof Sys2Proof.Machine

/-! ### Helpers -/

/-- A frame with its first parameters given and the others zero. -/
def fr (a s d : Byte) (ps : List Byte) (r : Byte) : Frame where
  address := a
  serverCommand := s
  deviceCommand := d
  parameters := ⟨(ps ++ List.replicate 20 0x00).take 20, by simp⟩
  reserved := r

/-- A wide frame with one value in every parameter slot. -/
def wide (a s d p r : Nat) : WideFrame where
  address := a
  serverCommand := s
  deviceCommand := d
  parameters := ⟨List.replicate 20 p, by simp⟩
  reserved := r

/-- The CRC-F1 body. -/
def f1Body : Bytes 24 := ⟨[0x05, 0x40, 0x00, 0x01] ++ List.replicate 20 0x00, rfl⟩

/-- The CRC-F1 frame. -/
def f1 : Frame := fr 0x05 0x40 0x00 [0x01] 0x00

/-- Frames of vector R-1. -/
def t1 : Frame := fr 0xFE 0x00 0x33 [] 0x00
def t2 : Frame := fr 0x00 0x00 0x35 [0x05] 0x00
def t5 : Frame := fr 0x07 0x00 0x34 [] 0x00
def t6 : Frame := fr 0x07 0x00 0x35 [0xFF] 0x00
def t7 : Frame := fr 0x07 0x00 0x35 [0x00] 0x00
def t8 : Frame := fr 0x07 0x00 0x32 [] 0x00
def t9 : Frame := fr 0x07 0x00 0x3F [] 0x00
def t10 : Frame := fr 0x07 0x00 0x31 [] 0x00
def t11 : Frame := fr 0x07 0x00 0x35 [0x09] 0x00
def t12 : Frame := fr 0x07 0x33 0x00 [] 0x00

/-- A waiting parser whose dead fields are not zero. -/
def idle : ParserState := { st := .waitStart, buf := f1Body, idx := 9, rxCrc := 0xBEEF, fits := rfl }

/-- A parser with `n` body bytes of CRC-F1 stored. -/
def filling (n : Nat) (h : n < 24) : ParserState :=
  { st := .readFrame, buf := f1Body, idx := ⟨n, by omega⟩, rxCrc := 0x0000, fits := by simpa [indexFits] using h }

def inCrcLow : ParserState := { st := .readCrcLow, buf := f1Body, idx := 24, rxCrc := 0x0000, fits := rfl }
def inCrcHigh : ParserState := { st := .readCrcHigh, buf := f1Body, idx := 24, rxCrc := 0x00AB, fits := rfl }

/-- A parser in WaitEnd with a body and a received CRC. -/
def ending (body : Bytes 24) (c : U16) : ParserState := { st := .waitEnd, buf := body, idx := 24, rxCrc := c, fits := rfl }

/-- The reset state with a parser and an address. -/
def st (P : ParserState) (m : Byte) : State := { State.reset with P := P, myAddress := m }

/-- The state with one call pending. -/
def call (s : State) (r : List Byte) : State := { s with calls := [r] }

/-- What is looked at after a step: the parser, the address and the last output. -/
def look (x : Step) : Option (ParserState × Byte × Option Output) :=
  match x with
  | .next t => some (t.P, t.myAddress, t.trace.getLast?)
  | .fault _ => none
  | .refused _ => none

/-- The refusal, if any. -/
def refusal (x : Step) : Option Refusal :=
  match x with
  | .next _ => none
  | .fault _ => none
  | .refused r => some r

/-- A completed pure operation leaves the parser and the address. -/
def pure_ (s : State) (r : Result) (evs : List Event) : Option (ParserState × Byte × Option Output) :=
  some (s.P, s.myAddress, some { result := r, events := evs })

/-! ### Well-formedness refuses -/

theorem test_illFormed_skip : WellFormed (.feedWaitStartSkip 0xAA) = false := by decide
theorem test_illFormed_badEnd : WellFormed (.feedWaitEndBadEnd 0x55) = false := by decide
theorem test_illFormed_core_low : WellFormed (.classCore 0x00) = false := by decide
theorem test_illFormed_core_high : WellFormed (.classCore 0x40) = false := by decide
theorem test_illFormed_serverCmd : WellFormed (.classServerCmd 0x80) = false := by decide
theorem test_illFormed_deviceEvent : WellFormed (.classDeviceEvent 0x7F) = false := by decide
theorem test_illFormed_ping : WellFormed (.corePing 0x07 (fr 0x07 0 0x40 [] 0)) = false := by decide
theorem test_illFormed_reset : WellFormed (.coreReset 0x07 (fr 0x07 0 0x00 [] 0)) = false := by decide
theorem test_illFormed_setAddress_class : WellFormed (.coreSetAddressValid 0x07 (fr 0x07 0 0x80 [9] 0)) = false := by
  decide
theorem test_illFormed_setAddress_valid : WellFormed (.coreSetAddressValid 0x07 t6) = false := by decide
theorem test_illFormed_setAddress_invalid : WellFormed (.coreSetAddressInvalid 0x07 t11) = false := by decide
theorem test_illFormed_setAddress_invalid_class :
    WellFormed (.coreSetAddressInvalid 0x07 (fr 0x07 0 0x80 [0] 0)) = false := by decide
theorem test_illFormed_hello : WellFormed (.coreHello 0x07 (fr 0x07 0 0x80 [] 0)) = false := by decide
theorem test_illFormed_ack : WellFormed (.coreAck 0x07 (fr 0x07 0 0x80 [] 0)) = false := by decide
theorem test_illFormed_unrecognized : WellFormed (.coreUnrecognized 0x07 (fr 0x07 0 0x40 [] 0)) = false := by decide
theorem test_illFormed_forward : WellFormed (.routeForward 0x07 t9) = false := by decide
/-- 95_test_vectors.md C-6, each field. -/
theorem test_illFormed_encode :
    WellFormed (.encodeFrame (wide 256 0 0 0 0)) = false ∧ WellFormed (.encodeFrame (wide 0 256 0 0 0)) = false ∧
    WellFormed (.encodeFrame (wide 0 0 256 0 0)) = false ∧ WellFormed (.encodeFrame (wide 0 0 0 256 0)) = false ∧
    WellFormed (.encodeFrame (wide 0 0 0 0 256)) = false ∧ WellFormed (.encodeFrame (wide 255 255 255 255 255)) = true := by
  decide

/-! ### Decoding: bare table words by the table's fixed bits -/

theorem test_word_start : decodeTableWord 8 0b10101010 = some .feedWaitStartStart := by decide
theorem test_word_accept : decodeTableWord 8 0b01010101 = some .feedWaitEndAccept := by decide
theorem test_word_absent : decodeTableWord 8 0b00000000 = some .classAbsent := by decide
theorem test_word_core : decodeTableWord 8 0b00110011 = some (.classCore 0x33) := by decide
theorem test_word_serverCmd : decodeTableWord 8 0b01000001 = some (.classServerCmd 0x41) := by decide
theorem test_word_deviceEvent : decodeTableWord 8 0b10000000 = some (.classDeviceEvent 0x80) := by decide

/-! ### Decoding: records (lead byte, row number, operands), every row -/

/-- The decoder's answer, for `decide`. -/
def dec (r : List Byte) : Option Instr := (decode r).toOption

/-- The operand bytes of a router row for `m` and a frame with one parameter. -/
def frameTail (m a s p r : Byte) : List Byte := [m, a, s, p] ++ List.replicate 19 0x00 ++ [r]

theorem test_decode_feedWaitStartStart : dec [0xAA, 1] = some .feedWaitStartStart := by decide
theorem test_decode_feedWaitStartSkip : dec [0x12, 2] = some (.feedWaitStartSkip 0x12) := by decide
theorem test_decode_feedReadFrame : dec [0xAA, 3] = some (.feedReadFrame 0xAA) := by decide
theorem test_decode_feedReadCrcLow : dec [0xAB, 4] = some (.feedReadCrcLow 0xAB) := by decide
theorem test_decode_feedReadCrcHigh : dec [0x10, 5] = some (.feedReadCrcHigh 0x10) := by decide
theorem test_decode_feedWaitEndAccept : dec [0x55, 6] = some .feedWaitEndAccept := by decide
theorem test_decode_feedWaitEndBadEnd : dec [0x54, 7] = some (.feedWaitEndBadEnd 0x54) := by decide
theorem test_decode_feedWaitEndBadCrc : dec [0x55, 8] = some .feedWaitEndBadCrc := by decide
theorem test_decode_classAbsent : dec [0x00, 9] = some .classAbsent := by decide
theorem test_decode_classCore : dec [0x01, 10] = some (.classCore 0x01) := by decide
theorem test_decode_classServerCmd : dec [0x7F, 11] = some (.classServerCmd 0x7F) := by decide
theorem test_decode_classDeviceEvent : dec [0xFF, 12] = some (.classDeviceEvent 0xFF) := by decide
theorem test_decode_corePing : dec ([0x33, 13] ++ frameTail 0x07 0xFE 0x00 0x00 0x00) = some (.corePing 0x07 t1) := by
  decide
theorem test_decode_coreReset : dec ([0x34, 14] ++ frameTail 0x07 0x07 0x00 0x00 0x00) = some (.coreReset 0x07 t5) := by
  decide
theorem test_decode_coreSetAddressValid :
    dec ([0x35, 15] ++ frameTail 0x07 0x07 0x00 0x09 0x00) = some (.coreSetAddressValid 0x07 t11) := by decide
theorem test_decode_coreSetAddressInvalid :
    dec ([0x35, 16] ++ frameTail 0x07 0x07 0x00 0xFF 0x00) = some (.coreSetAddressInvalid 0x07 t6) := by decide
theorem test_decode_coreHello : dec ([0x31, 17] ++ frameTail 0x07 0x07 0x00 0x00 0x00) = some (.coreHello 0x07 t10) := by
  decide
theorem test_decode_coreAck : dec ([0x32, 18] ++ frameTail 0x07 0x07 0x00 0x00 0x00) = some (.coreAck 0x07 t8) := by
  decide
theorem test_decode_coreUnrecognized :
    dec ([0x3F, 19] ++ frameTail 0x07 0x07 0x00 0x00 0x00) = some (.coreUnrecognized 0x07 t9) := by decide
theorem test_decode_routeForward :
    dec ([0x00, 20] ++ frameTail 0x07 0x07 0x33 0x00 0x00) = some (.routeForward 0x07 t12) := by decide
theorem test_decode_rxStepNotForMe : dec [0x05, 21] = some (.rxStepNotForMe 0x05) := by decide
theorem test_decode_crc16 : dec [0x00, 22, 0x31, 0x32] = some (.crc16 [0x31, 0x32]) := by decide
theorem test_decode_encodeFrame :
    dec ([0x00, 23, 0x07, 0x00, 0x40, 0x00, 0x00, 0x00] ++ List.replicate 40 0x00 ++ [0x05, 0x00]) =
      some (.encodeFrame (wide 0x07 0x40 0x00 0x00 0x05)) := by decide
theorem test_decode_unpack : dec ([0x00, 24, 0x05, 0x40, 0x00, 0x01] ++ List.replicate 20 0x00) = some (.unpack f1Body) := by
  decide
theorem test_decode_feed : dec [0x55, 25, 0x00] = some (.feed .between 0x55) := by decide
theorem test_decode_classify : dec [0x40, 26] = some (.classify 0x40) := by decide
theorem test_decode_isForMe : dec [0xFE, 27, 0x07] = some (.isForMe 0xFE 0x07) := by decide
theorem test_decode_route : dec ([0x33, 28] ++ frameTail 0x07 0xFE 0x00 0x00 0x00) = some (.route 0x07 t1) := by decide
theorem test_decode_makeHello : dec [0x05, 29] = some (.makeHello 0x05) := by decide
theorem test_decode_rxStep : dec [0xAA, 30, 0x00] = some (.rxStep .between 0xAA) := by decide
theorem test_decode_reset : dec [0x07, 31, 0x01] = some (.reset (some 0x07)) := by decide
theorem test_decode_reset_absent : dec [0x00, 31, 0x00] = some (.reset none) := by decide
theorem test_decode_rejects :
    dec [] = none ∧ dec [0x00, 0] = none ∧ dec [0x00, 32] = none ∧ dec [0xAA, 2] = none ∧ dec [0xAB, 1] = none ∧
    dec [0x55, 25] = none ∧ dec [0x55, 25, 0x04] = none ∧ dec [0x00, 22] = some (.crc16 []) ∧
    dec ([0x33, 13] ++ List.replicate 23 0x00) = none ∧ dec [0x01, 31, 0x00] = none := by decide
theorem test_decode_encode_out_of_range :
    dec ([0x00, 23, 0x00, 0x01] ++ List.replicate 46 0x00) = none := by decide

/-! ### One step each -/

/-- F-3. -/
theorem test_feedWaitStartStart :
    (look (exec .feedWaitStartStart (st idle 0))).map (fun t => (t.1.st, t.1.idx.val, t.1.rxCrc, t.1.buf)) =
      some (.readFrame, 0, 0x0000, f1Body) := by decide
/-- F-2. -/
theorem test_feedWaitStartSkip :
    look (exec (.feedWaitStartSkip 0x55) (st idle 0)) = pure_ (st idle 0) (.fed none) [] := by decide
/-- F-4. -/
theorem test_feedReadFrame_first :
    (look (exec (.feedReadFrame 0xAA) (st (filling 0 (by decide)) 0))).map
      (fun t => (t.1.st, t.1.idx.val, t.1.rxCrc, t.1.buf.get 0, t.1.buf.get 1)) =
      some (.readFrame, 1, 0x0000, 0xAA, 0x40) := by decide
/-- F-5. -/
theorem test_feedReadFrame_last :
    (look (exec (.feedReadFrame 0x77) (st (filling 23 (by decide)) 0))).map
      (fun t => (t.1.st, t.1.idx.val, t.1.rxCrc, t.1.buf.get 23, t.1.buf.get 22)) =
      some (.readCrcLow, 24, 0x0000, 0x77, 0x00) := by decide
/-- F-6. -/
theorem test_feedReadCrcLow :
    look (exec (.feedReadCrcLow 0xAB) (st inCrcLow 0)) = pure_ (st inCrcHigh 0) (.fed none) [] := by decide
/-- F-7. -/
theorem test_feedReadCrcHigh :
    look (exec (.feedReadCrcHigh 0x10) (st inCrcHigh 0)) = pure_ (st (ending f1Body 0x10AB) 0) (.fed none) [] := by decide
/-- F-8. -/
theorem test_feedWaitEndAccept :
    (look (exec .feedWaitEndAccept (st (ending f1Body 0x10AB) 0))).map (fun t => (t.1.st, t.2.2)) =
      some (.waitStart, some { result := .fed (some f1), events := [] }) := by decide +kernel
/-- F-9 and F-10. -/
theorem test_feedWaitEndBadEnd :
    (look (exec (.feedWaitEndBadEnd 0xAA) (st (ending f1Body 0x10AB) 0))).map (fun t => (t.1.st, t.2.2)) =
      some (.waitStart, some { result := .fed none, events := [] }) := by decide
/-- F-11. -/
theorem test_feedWaitEndBadCrc :
    (look (exec .feedWaitEndBadCrc (st (ending f1Body 0xAB10) 0))).map (fun t => (t.1.st, t.1.rxCrc, t.2.2)) =
      some (.waitStart, 0xAB10, some { result := .fed none, events := [] }) := by decide +kernel
/-- A row whose condition fails is refused by name. -/
theorem test_row_not_selected :
    refusal (exec .feedWaitEndAccept (st (ending f1Body 0xAB10) 0)) = some (.rowNotSelected "FEED.WaitEnd.accept") ∧
    refusal (exec (.feedReadFrame 0x00) State.reset) = some (.rowNotSelected "FEED.ReadFrame") := by decide +kernel

/-- K-1. -/
theorem test_classAbsent : look (exec .classAbsent State.reset) = pure_ State.reset (.cls .absent) [] := by decide
theorem test_classCore : look (exec (.classCore 0x3F) State.reset) = pure_ State.reset (.cls .core) [] := by decide
theorem test_classServerCmd :
    look (exec (.classServerCmd 0x40) State.reset) = pure_ State.reset (.cls .serverCmd) [] := by decide
theorem test_classDeviceEvent :
    look (exec (.classDeviceEvent 0x80) State.reset) = pure_ State.reset (.cls .deviceEvent) [] := by decide
theorem test_classify_low :
    look (exec (.classify 0x00) State.reset) = pure_ State.reset (.cls .absent) [] ∧
    look (exec (.classify 0x01) State.reset) = pure_ State.reset (.cls .core) [] ∧
    look (exec (.classify 0x3F) State.reset) = pure_ State.reset (.cls .core) [] ∧
    look (exec (.classify 0x40) State.reset) = pure_ State.reset (.cls .serverCmd) [] := by decide
theorem test_classify_high :
    look (exec (.classify 0x7F) State.reset) = pure_ State.reset (.cls .serverCmd) [] ∧
    look (exec (.classify 0x80) State.reset) = pure_ State.reset (.cls .deviceEvent) [] ∧
    look (exec (.classify 0xFF) State.reset) = pure_ State.reset (.cls .deviceEvent) [] := by decide
/-- A-1: the column FE, the diagonal, and two entries off it. -/
theorem test_isForMe :
    isForMe 0xFE 0x00 = true ∧ isForMe 0xFE 0x07 = true ∧ isForMe 0xFE 0xFF = true ∧ isForMe 0x00 0x00 = true ∧
    isForMe 0xFF 0xFF = true ∧ isForMe 0x00 0x05 = false ∧ isForMe 0xFF 0x07 = false ∧ isForMe 0x05 0x07 = false := by
  decide

/-- R-2a. -/
theorem test_corePing :
    look (exec (.corePing 0x07 t1) (st idle 0x07)) = pure_ (st idle 0x07) .done [.pingRecognized t1] := by decide
/-- R-2b. -/
theorem test_coreReset :
    look (exec (.coreReset 0x07 t5) (st idle 0x07)) = pure_ (st idle 0x07) .done [.hostResetRequest] := by decide
/-- R-2c, with T14's bytes: `AA 01 00 31 09 2C 00×18 00 E9 C5 55`. -/
theorem test_coreSetAddressValid :
    look (exec (.coreSetAddressValid 0x07 t11) (st idle 0x07)) = pure_ (st idle 0x07) .done
      [.setMyAddress 0x09, .saveAddress 0x09,
       .tx ⟨[0xAA, 0x01, 0x00, 0x31, 0x09, 0x2C] ++ List.replicate 19 0x00 ++ [0xE9, 0xC5, 0x55], rfl⟩] := by
  decide +kernel
/-- R-2d and R-2e. -/
theorem test_coreSetAddressInvalid :
    look (exec (.coreSetAddressInvalid 0x07 t6) (st idle 0x07)) = pure_ (st idle 0x07) .done [] ∧
    look (exec (.coreSetAddressInvalid 0x07 t7) (st idle 0x07)) = pure_ (st idle 0x07) .done [] := by decide
/-- R-2g. -/
theorem test_coreHello : look (exec (.coreHello 0x07 t10) (st idle 0x07)) = pure_ (st idle 0x07) .done [] := by decide
/-- R-2f. -/
theorem test_coreAck : look (exec (.coreAck 0x07 t8) (st idle 0x07)) = pure_ (st idle 0x07) .done [] := by decide
/-- R-2h. -/
theorem test_coreUnrecognized :
    look (exec (.coreUnrecognized 0x07 t9) (st idle 0x07)) = pure_ (st idle 0x07) .done [.appHandle t9] := by decide
/-- R-2i. -/
theorem test_routeForward :
    look (exec (.routeForward 0x07 t12) (st idle 0x07)) = pure_ (st idle 0x07) .done [.appHandle t12] := by decide
/-- R-2m. -/
theorem test_rxStepNotForMe :
    look (exec (.rxStepNotForMe 0x00) (st idle 0x07)) = pure_ (st idle 0x07) .done [] := by decide
/-- R-2a, R-2b, R-2d, R-2f, R-2g, R-2h and R-2i through ROUTE. -/
theorem test_route :
    [t1, t5, t6, t8, t10, t9, t12].map (fun f => (look (exec (.route 0x07 f) (st idle 0x07))).map (fun t => t.2.2)) =
      [[.pingRecognized t1], [.hostResetRequest], [], [], [], [.appHandle t9], [.appHandle t12]].map
        (fun evs => some (some { result := .done, events := evs })) := by decide

/-- CR-T and the CRC_STEP vectors. -/
theorem test_crcStep :
    crcStep 0xFFFF 0x01 = 0xF1D1 ∧ crcStep 0x0000 0x00 = 0x0000 ∧ crcStep 0x0000 0x01 = 0x1021 ∧
    crcStep 0x0000 0x80 = 0x9188 ∧ crcStep 0x8000 0x00 = 0x9188 ∧ crcStep 0x0001 0x00 = 0x0100 ∧
    crcStep 0xFFFF 0x00 = 0xE1F0 ∧ crcStep 0xFFFF 0xFF = 0xFF00 ∧ crcStep 0x1234 0x56 = 0x3C40 := by decide +kernel
/-- The CRC16 vectors, `"123456789"` among them. -/
theorem test_crc16 :
    look (exec (.crc16 [0x31, 0x32, 0x33, 0x34, 0x35, 0x36, 0x37, 0x38, 0x39]) State.reset) =
      pure_ State.reset (.crc 0x29B1) [] ∧
    crc16 [] = 0xFFFF ∧ crc16 [0x80] = 0x7078 ∧ crc16 (List.replicate 24 0x00) = 0xEF8A ∧
    crc16 (List.replicate 24 0xFF) = 0x2CE6 ∧ crc16 f1Body.toList = 0x10AB ∧
    crc16 (f1Body.toList ++ [0xAB, 0x10]) = 0xD447 := by decide +kernel

/-- C-2: `reserved` is written as 0x00, and the bytes are CRC-F7's. -/
theorem test_encodeFrame :
    look (exec (.encodeFrame (wide 0x07 0x40 0x00 0x00 0x05)) State.reset) = pure_ State.reset (.wire
      ⟨[0xAA, 0x07, 0x40] ++ List.replicate 22 0x00 ++ [0x5B, 0xAB, 0x55], rfl⟩) [] := by decide +kernel
/-- C-1: CRC-F4 and CRC-F5. -/
theorem test_encodeFrame_data :
    (encodeFrame (fr 0x07 0x41 0x00 [0xAA, 0x55, 0xAA] 0x00)).toList =
      [0xAA, 0x07, 0x41, 0x00, 0xAA, 0x55, 0xAA] ++ List.replicate 18 0x00 ++ [0xAF, 0x7A, 0x55] ∧
    (encodeFrame (fr 0xFE 0x7F 0x00 (List.replicate 20 0xFF) 0x00)).toList =
      [0xAA, 0xFE, 0x7F, 0x00] ++ List.replicate 20 0xFF ++ [0x00, 0x2A, 0x61, 0x55] := by decide +kernel
/-- C-6. -/
theorem test_encodeFrame_refuses :
    refusal (exec (.encodeFrame (wide 0 0 256 0 0)) State.reset) = some .fieldOutOfRange := by decide
/-- C-3: `reserved` is carried. -/
theorem test_unpack :
    look (exec (.unpack ⟨[0x07, 0x40] ++ List.replicate 21 0x00 ++ [0x05], rfl⟩) State.reset) =
      pure_ State.reset (.frame (fr 0x07 0x40 0x00 [] 0x05)) [] := by decide
/-- F-8 and F-11 through FEED. -/
theorem test_feed :
    (look (exec (.feed .between 0x55) (st (ending f1Body 0x10AB) 0))).map (fun t => (t.1.st, t.2.2)) =
      some (.waitStart, some { result := .fed (some f1), events := [] }) ∧
    (look (exec (.feed .between 0x55) (st (ending f1Body 0xAB10) 0))).map (fun t => (t.1.st, t.2.2)) =
      some (.waitStart, some { result := .fed none, events := [] }) := by decide +kernel
/-- 60_exceptions.md R88 points 3 and 4. -/
theorem test_feed_moments :
    refusal (exec (.feed .concurrent 0xAA) State.reset) = some .concurrentFeed ∧
    refusal (exec (.feed .insideCallback 0xAA) State.reset) = some .reentrantFeed ∧
    refusal (exec (.rxStep .duringTx 0xAA) State.reset) = some .feedDuringTx := by decide
/-- T4 and T3: the HELLO of an unassigned node carries the hardware identifier, that of an assigned one does not. -/
theorem test_makeHello :
    (encodeFrame (makeHello Config.resetCfg (State.reset.ctx 0x00))).toList =
      [0xAA, 0x01, 0x00, 0x31, 0x00, 0x2C, 0xDE, 0xAD, 0xBE, 0xEF, 0x00, 0x01] ++ List.replicate 13 0x00 ++
        [0xEF, 0xDC, 0x55] ∧
    (encodeFrame (makeHello Config.resetCfg (State.reset.ctx 0x05))).toList =
      [0xAA, 0x01, 0x00, 0x31, 0x05, 0x2C] ++ List.replicate 19 0x00 ++ [0x24, 0x6D, 0x55] := by decide +kernel
theorem test_makeHello_exec :
    look (exec (.makeHello 0x05) (st idle 0x07)) =
      pure_ (st idle 0x07) (.frame (fr 0x01 0x00 0x31 [0x05, 0x2C] 0x00)) [] := by decide
/-- R-2n on the frame's last byte: the address is adopted; R-2p: another node's frame does nothing. -/
theorem test_rxStep_setAddress :
    (look (exec (.rxStep .between 0x55) (st (ending (bodyOf t2) 0x40B5) 0x00))).map
      (fun t => (t.1.st, t.2.1, t.2.2.map (fun o => o.events.take 2))) =
        some (.waitStart, 0x05, some [.setMyAddress 0x05, .saveAddress 0x05]) ∧
    (look (exec (.rxStep .between 0x55) (st (ending (bodyOf t2) 0x40B5) 0x05))).map
      (fun t => (t.1.st, t.2.1, t.2.2)) =
        some (.waitStart, 0x05, some { result := .done, events := [] }) := by decide +kernel
/-- R-2a and R-2j on the frame's last byte. -/
theorem test_rxStep_ping :
    (look (exec (.rxStep .between 0x55) (st (ending (bodyOf t1) 0x6778) 0x07))).map (fun t => (t.2.1, t.2.2)) =
      some (0x07, some { result := .done, events := [.pingRecognized t1] }) ∧
    (look (exec (.rxStep .between 0x55) (st (ending f1Body 0x10AB) 0x05))).map (fun t => (t.2.1, t.2.2)) =
      some (0x05, some { result := .done, events := [.appHandle f1] }) := by decide +kernel
/-- Z-1, Z-2 and Z-3. -/
theorem test_reset :
    (look (exec (.reset none) (st (filling 9 (by decide)) 0x07))).map (fun t => (t.1.st, t.2.1, t.2.2)) =
      some (.waitStart, 0x00, some { result := .done, events := [] }) ∧
    (look (exec (.reset (some 0x07)) (st (filling 9 (by decide)) 0x00))).map (fun t => (t.1.st, t.2.1)) =
      some (.waitStart, 0x07) ∧
    (look (exec (.reset (some 0xFF)) (st idle 0x00))).map (fun t => (t.1.st, t.2.1)) =
      some (.waitStart, 0xFF) := by decide
/-- 60_exceptions.md R88 point 1: a code out of range, and two codes alike. -/
theorem test_cfg_refused :
    refusal (exec (.route 0x07 t1) { State.reset with cfg := { Config.resetCfg with cmdAck := 0x40 } }) =
      some .illFormedCfg ∧
    refusal (exec (.makeHello 0x07) { State.reset with cfg := { Config.resetCfg with cmdAck := 0x31 } }) =
      some .illFormedCfg := by decide
/-- A pending record runs on the next step, and a record that encodes no call is refused. -/
theorem test_step :
    (look (step (call (st idle 0x07) [0xAA, 30, 0x00]))).map (fun t => (t.1.st, t.1.idx.val)) =
      some (.readFrame, 0) ∧
    refusal (step (call State.reset [0x00, 0])) = some (.undecodable .unknownRow) ∧
    refusal (step (call State.reset [])) = some (.undecodable .emptyRecord) := by decide
/-- The word placed by `withFetchWord` is the next instruction; the FEED.WaitEnd.badCrc row is put where it is selected. -/
theorem test_withFetchWord :
    (look (step (State.reset.withFetchWord 8 0xAA))).map (fun t => t.1.st) = some .readFrame ∧
    (look (step (State.reset.withFetchWord 16 0x0855))).map (fun t => (t.1.st, t.2.2)) =
      some (.waitStart, some { result := .fed none, events := [] }) := by decide +kernel

/-- 30_encoding.md R33, the edges of the five classes. -/
theorem test_addressClass :
    [0x00, 0x01, 0x02, 0xFD, 0xFE, 0xFF].map addressClass =
      [.unassigned, .server, .node, .node, .broadcast, .reserved] := by decide

/-! ### The textual notation -/

/-- Lines of programs P2 and P1. -/
theorem test_notation_lines :
    readProgram "CFG CMD_HELLO=31, CMD_PING=33\n\nRESET load=absent\nRESET load=05\nRESET\nFEED 12 aA  -- x\nHELLO".toList =
      some [.cfg [(.hello, 0x31), (.ping, 0x33)], .reset none, .reset (some 0x05), .reset none,
        .feed [.byte 0x12, .byte 0xAA], .hello] := by decide +kernel

/-- The SEND line of P7 and the first FEED line of P6: their frame literals, tokens spelled out. -/
theorem test_notation_frames :
    readLine [['S', 'E', 'N', 'D'], tokOpenFrame, ['a'], ['='], ['0', '7'], ['s'], ['='], ['4', '0'], ['d'], ['='],
      ['0', '0'], ['p'], ['='], ['['], [']'], ['r'], ['='], ['0', '5'], tokCloseFrame] =
      some (.send (wide 0x07 0x40 0x00 0x00 0x05)) ∧
    readLine [['F', 'E', 'E', 'D'], ['F', 'R', 'A', 'M', 'E'], ['('], tokOpenFrame, ['a'], ['='], ['0', '7'], ['s'],
      ['='], ['0', '0'], ['d'], ['='], ['3', '5'], ['p'], ['='], ['['], ['F', 'F'], [']'], tokCloseFrame, [')']] =
      some (.feed [.frame t6.widen]) := by decide +kernel

/-- A text outside the grammar: a byte of one digit, an unknown line, a CFG value above a byte. -/
theorem test_notation_rejects :
    readProgram "FEED 1".toList = none ∧ readProgram "POKE 12".toList = none ∧
    readProgram "CFG CMD_ACK=100".toList = none := by decide +kernel

/-- The macro FRAME is the 28 bytes of ENCODE, and refused outside ENCODE's range. -/
theorem test_notation_macro :
    expandItems [.byte 0x12, .frame f1.widen] = some (0x12 :: (encodeFrame f1).toList) ∧
    refusal (runLine (.feedp [.frame (wide 256 0 0 0 0)]) State.reset) = some .fieldOutOfRange := by decide +kernel

/-- CTX "stands for the state a RESET with that load value produces", of a node with that type and identifier. -/
theorem test_notation_ctx :
    readProgram "CTX myAddress=05 deviceType=2C hwId=DEADBEEF0001".toList =
      some [.ctx 0x05 0x2C Config.resetHwId] ∧
    (look (runLine (.ctx 0x05 0x2C Config.resetHwId) (st inCrcLow 0x07))).map (fun t => (t.1.st, t.2.1)) =
      some (.waitStart, 0x05) := by decide +kernel

/-- Log entry 15: a CFG line in the middle of a frame keeps the parser and the address; one that makes two codes alike is
refused. -/
theorem test_notation_cfg_in_place :
    (look (runLine (.cfg [(.ping, 0x3E)]) (st inCrcLow 0x07))).map (fun t => (t.1, t.2.1)) = some (inCrcLow, 0x07) ∧
    refusal (runLine (.cfg [(.ping, 0x31)]) State.reset) = some .illFormedCfg := by decide

/-! ### Witnesses: for every statement with hypotheses, concrete data that meets all of them together, one conjunct per
clause, at the ends of the clause's range -/

theorem witness_DecodeOfEncodeIsTheInstruction :
    WellFormed (.classCore 0x3F) = true ∧ WellFormed (.encodeFrame (wide 255 255 255 255 255)) = true ∧
    WellFormed (.coreSetAddressValid 0x07 t11) = true := by decide

theorem witness_DecodedRecordsAreWellFormedAndExact :
    decode [0xFE, 27, 0x07] = .ok (.isForMe 0xFE 0x07) ∧ decode [0x55] = .ok .feedWaitEndAccept := ⟨rfl, rfl⟩

theorem witness_StepRunsTheOldestPendingCall :
    State.reset.calls = [] ∧
    ((call State.reset [0xAA, 30, 0x00]).calls = [[0xAA, 30, 0x00]] ∧
      decode [0xAA, 30, 0x00] = .ok (.rxStep .between 0xAA)) ∧
    ((call State.reset [0x00, 0]).calls = [[0x00, 0]] ∧ decode [0x00, 0] = .error .unknownRow) :=
  ⟨rfl, ⟨rfl, rfl⟩, rfl, rfl⟩

theorem witness_FetchWordRunsOnTheNextStep :
    (decodeTableWord 24 0x001EAA = some (.rxStep .between 0xAA) ∧
      selected (.rxStep .between 0xAA) State.reset = true) ∧
    (decodeTableWord 16 0x0855 = some .feedWaitEndBadCrc ∧ feedRow .feedWaitEndBadCrc = true) := by decide

theorem witness_Crc16IsAffineInTheData : ([0x05, 0x40] : List Byte).length = ([0x00, 0x80] : List Byte).length := rfl

theorem witness_Crc16DetectsEverySingleBitFlip : (0 < 24 ∧ 0 < 8) ∧ (23 < 24 ∧ 7 < 8) := by decide

theorem witness_EncodeIsTotalInRangeAndRefusesOutside :
    ((255 < 256 ∧ (∀ p ∈ (wide 255 255 255 255 255).parameters.toList, p < 256)) ∧
      (wide 255 255 255 255 255).inRange = true) ∧
    ¬ (∀ p ∈ (wide 0 0 0 256 0).parameters.toList, p < 256) := by decide

theorem witness_WaitStartRowsOpenAFrameOrSkip : (st idle 0).P.st = .waitStart ∧ (0x55 : Byte) ≠ 0xAA := by decide

theorem witness_ReadFrameStoresEveryByte :
    (st (filling 0 (by decide)) 0).P.st = .readFrame ∧ (st (filling 23 (by decide)) 0).P.st = .readFrame := by decide

theorem witness_CrcByteRowsAssembleTheReceivedCrc :
    (st inCrcLow 0).P.st = .readCrcLow ∧
    ((st inCrcHigh 0).P.st = .readCrcHigh ∧ (st inCrcHigh 0).P.rxCrc.extractLsb' 8 8 = 0) := by decide

theorem witness_WaitEndAcceptEmitsTheBufferedFrame :
    (st (ending f1Body 0x10AB) 0).P.st = .waitEnd ∧
    crc16 (st (ending f1Body 0x10AB) 0).P.buf.toList = (st (ending f1Body 0x10AB) 0).P.rxCrc := by decide +kernel

theorem witness_WaitEndFailureDropsSilently :
    (st (ending f1Body 0xAB10) 0).P.st = .waitEnd ∧ (0xAA : Byte) ≠ 0x55 ∧
    crc16 (st (ending f1Body 0xAB10) 0).P.buf.toList ≠ (st (ending f1Body 0xAB10) 0).P.rxCrc := by decide +kernel

theorem witness_FeedIsTotalAndRunsTheSelectedRow :
    (st idle 0).P.st = .waitStart ∧ (st (filling 23 (by decide)) 0).P.st = .readFrame ∧
    (st inCrcLow 0).P.st = .readCrcLow ∧ (st inCrcHigh 0).P.st = .readCrcHigh ∧
    ((st (ending f1Body 0x10AB) 0).P.st = .waitEnd ∧ (feed (ending f1Body 0x10AB) 0x55).2 ≠ none) := by decide +kernel

theorem witness_InstructionsStopOnlyWhereTheirRowIsNotSelected :
    (st idle 0x07).cfg.wf = true ∧
    (selected .feedWaitStartStart (st idle 0x07) = true ∧ selected (.corePing 0x07 t1) (st idle 0x07) = true) ∧
    (selected .feedWaitEndAccept (st idle 0x07) = false ∧ selected (.corePing 0x07 t5) (st idle 0x07) = false) := by
  decide

theorem witness_ClassRowsPartitionTheCommandBytes :
    ((0x01 : Byte) ≠ 0 ∧ (0x01 : Byte).extractLsb' 6 2 = 0 ∧ (0x3F : Byte).extractLsb' 6 2 = 0) ∧
    ((0x40 : Byte).extractLsb' 6 2 = 1 ∧ (0x7F : Byte).extractLsb' 6 2 = 1) ∧
    ((0x80 : Byte).getLsbD 7 = true ∧ (0xFF : Byte).getLsbD 7 = true) ∧
    ((0x40 : Byte).extractLsb' 6 2 ≠ 0 ∧ (0x80 : Byte).extractLsb' 6 2 ≠ 1 ∧ (0x7F : Byte).getLsbD 7 = false) := by
  decide

theorem witness_PingAndResetRowsEmitTheirEvent :
    State.reset.cfg.wf = true ∧ t1.deviceCommand = State.reset.cfg.cmdPing ∧
    t5.deviceCommand = State.reset.cfg.cmdReset := by decide

theorem witness_SetAddressRowAdoptsPersistsAnnounces :
    State.reset.cfg.wf = true ∧ t11.deviceCommand = State.reset.cfg.cmdSetAddress ∧
    t11.parameters.get 0 ≠ 0x00 ∧ t11.parameters.get 0 ≠ 0xFF := by decide

theorem witness_InvalidSetAddressIsIgnored :
    State.reset.cfg.wf = true ∧ t6.deviceCommand = State.reset.cfg.cmdSetAddress ∧
    t6.parameters.get 0 = 0xFF ∧ t7.parameters.get 0 = 0x00 ∧
    (feed (st (ending (bodyOf t6) 0x1FEB) 0x07).P 0x55).2 = some t6 := by decide +kernel

theorem witness_HelloAndAckRowsEmitNothing :
    State.reset.cfg.wf = true ∧ t10.deviceCommand = State.reset.cfg.cmdHello ∧
    t8.deviceCommand = State.reset.cfg.cmdAck := by decide

theorem witness_OtherFramesGoToTheApplicationUnchanged :
    State.reset.cfg.wf = true ∧
    (1 ≤ t9.deviceCommand.toNat ∧ t9.deviceCommand.toNat ≤ 0x3F ∧
      t9.deviceCommand ∉ [State.reset.cfg.cmdHello, State.reset.cfg.cmdAck, State.reset.cfg.cmdPing,
        State.reset.cfg.cmdReset, State.reset.cfg.cmdSetAddress]) ∧
    t12.deviceCommand = 0x00 ∧ 0x40 ≤ (0x40 : Byte).toNat ∧ 0x40 ≤ (0xFF : Byte).toNat := by decide

theorem witness_RouteRunsTheRowDeviceCommandSelects :
    State.reset.cfg.wf = true ∧ (fr 0x07 0x00 0x35 [0x09, 0xAA] 0x00).parameters.get 0 = t11.parameters.get 0 ∧
    (fr 0x07 0x00 0x35 [0x09, 0xAA] 0x00).parameters ≠ t11.parameters := by decide

theorem witness_MakeHelloCarriesTheIdentity : State.reset.cfg.wf = true ∧ 5 < 6 ∧ 11 < 12 := by decide

theorem witness_RxStepFeedsMatchesAndRoutes :
    State.reset.cfg.wf = true ∧ (feed (st idle 0x07).P 0x12).2 = none ∧
    ((feed (st (ending f1Body 0x10AB) 0x05).P 0x55).2 = some f1 ∧ f1.address = (st (ending f1Body 0x10AB) 0x05).myAddress) ∧
    ((feed (st (ending (bodyOf t1) 0x6778) 0x07).P 0x55).2 = some t1 ∧ t1.address = 0xFE) := by decide +kernel

theorem witness_FrameNotForThisNodeIsIgnored :
    f1.address ≠ (st (ending f1Body 0x10AB) 0x07).myAddress ∧ f1.address ≠ 0xFE ∧
    (st (ending f1Body 0x10AB) 0x07).cfg.wf = true ∧ (feed (st (ending f1Body 0x10AB) 0x07).P 0x55).2 = some f1 := by
  decide +kernel

theorem witness_RxStepEmitsAtMostThreeEventsInOrder :
    ∃ t, exec (.rxStep .between 0x55) (st (ending (bodyOf t2) 0x40B5) 0x00) = .next t := ⟨_, rfl⟩

theorem witness_ResetReturnsToWaitStartWithTheLoadedAddress :
    (some 0xFF : Option Byte) = some 0xFF ∧ (none : Option Byte) = none := ⟨rfl, rfl⟩

theorem witness_IllFormedCfgIsRefusedAndBootFixesIt :
    ([0x01, 0x3F, 0x33, 0x34, 0x35] : List Byte).Nodup ∧
    (∀ c ∈ ([0x01, 0x3F, 0x33, 0x34, 0x35] : List Byte), 1 ≤ c.toNat ∧ c.toNat ≤ 0x3F) ∧
    ¬ ([0x31, 0x31, 0x33, 0x34, 0x35] : List Byte).Nodup ∧
    ¬ (∀ c ∈ ([0x31, 0x40, 0x33, 0x34, 0x35] : List Byte), 1 ≤ c.toNat ∧ c.toNat ≤ 0x3F) ∧
    ¬ (∀ c ∈ ([0x31, 0x32, 0x33, 0x34, 0x00] : List Byte), 1 ≤ c.toNat ∧ c.toNat ≤ 0x3F) := by decide

/-- A state in order whose parser is in WaitEnd, with a call that runs. -/
theorem witness_EveryStepKeepsTheInvariant :
    (call (st (ending f1Body 0x10AB) 0x05) [0x55, 30, 0x00]).Inv ∧
    ∃ t, step (call (st (ending f1Body 0x10AB) 0x05) [0x55, 30, 0x00]) = .next t :=
  ⟨⟨by decide, rfl, fun _ h => nomatch h⟩, _, rfl⟩

theorem witness_OnlyResetAndAcceptedSetAddressWriteMyAddress :
    (∃ t, exec (.reset (some 0x07)) State.reset = .next t ∧ t.myAddress ≠ State.reset.myAddress) ∧
    (∃ t, exec (.rxStep .between 0x55) (st (ending (bodyOf t2) 0x40B5) 0x00) = .next t ∧
      t.myAddress ≠ (st (ending (bodyOf t2) 0x40B5) 0x00).myAddress) :=
  ⟨⟨_, rfl, by decide⟩, _, rfl, by decide +kernel⟩

theorem witness_EveryStepKeepsTheConfigurationAndReportsOnce :
    (∃ t, step State.reset = .next t) ∧ (∃ t, step (call State.reset [0xAA, 30, 0x00]) = .next t) :=
  ⟨⟨_, rfl⟩, _, rfl⟩

theorem witness_PureOperationsOnlyReport :
    (∃ t, exec (.corePing 0x07 t1) State.reset = .next t) ∧ pureRow (.corePing 0x07 t1) = true :=
  ⟨⟨_, rfl⟩, rfl⟩

theorem witness_OnlyReadFrameWritesTheBuffer :
    ∃ t, exec (.feed .between 0x77) (st (filling 23 (by decide)) 0x07) = .next t ∧
      t.P.buf ≠ (st (filling 23 (by decide)) 0x07).P.buf := ⟨_, rfl, by decide⟩

theorem witness_MalformedWireDataNeverStopsTheEngine :
    ({ State.reset with calls := feedCalls [0xAA, 0x55, 0x00] } : State).calls = feedCalls [0xAA, 0x55, 0x00] := rfl

/-- Two instances with a call each. -/
def pair : List State := [call State.reset [0xAA, 25, 0x00], call State.reset [0x07, 31, 0x01]]

theorem witness_InstancesShareNoState :
    (0 : Nat) ≠ 1 ∧ ∃ a b ab, stepInstance 0 pair = .next a ∧ stepInstance 1 a = .next ab ∧
      stepInstance 1 pair = .next b :=
  ⟨by decide, _, _, _, rfl, rfl, rfl⟩

theorem witness_DeadParserFieldsAreUnobservable :
    State.reset.P.st = .waitStart ∧ idle.st = .waitStart ∧ State.reset.P ≠ idle ∧
    (∃ t, Sys2Proof.core.run 1 (call State.reset [0xAA, 30, 0x00]) = .next t) ∧
    (∃ r, Sys2Proof.core.run 1 (call State.reset []) = .refused r) :=
  ⟨rfl, rfl, by decide, ⟨_, rfl⟩, _, rfl⟩

theorem witness_ParserHoldsTheBytesReceivedSoFar :
    idle.st = .waitStart ∧ ([] : List Byte).length < 24 ∧ (List.replicate 23 (0xAA : Byte)).length < 24 ∧
    (List.replicate 24 (0xAA : Byte)).length = 24 := by decide

theorem witness_AFrameAttemptTakesExactlyTwentySevenMoreBytes :
    (st idle 0).P.st = .waitStart ∧
    ({ st idle 0 with calls := feedCalls (0xAA :: List.replicate 27 0xAA) ++ [[0x00]] } : State).calls =
      feedCalls (0xAA :: List.replicate 27 0xAA) ++ [[0x00]] ∧
    (List.replicate 27 (0xAA : Byte)).length ≤ 27 := ⟨rfl, rfl, by decide⟩

theorem witness_BytesAreReceivedExactlyWhenValid :
    (st idle 0).P.st = .waitStart ∧
    ({ st idle 0 with calls := feedCalls (encodeFrame f1).toList } : State).calls = feedCalls (encodeFrame f1).toList ∧
    validFrame (encodeFrame f1) = true ∧ validFrame ((encodeFrame f1).set 0 0xAB) = false := by
  refine ⟨rfl, rfl, ?_⟩
  decide +kernel

/-- Two frames, garbage before the first. -/
def twoSegments : List (List Byte × Frame) := [([0x12, 0x34], f1), ([], t1)]

theorem witness_EncodedFramesAreReceivedInOrder :
    (st idle 0).P.st = .waitStart ∧ (∀ g ∈ twoSegments, ∀ b ∈ g.1, b ≠ 0xAA) ∧
    ({ st idle 0 with calls := feedCalls (twoSegments.flatMap (fun g => g.1 ++ (encodeFrame g.2).toList)) } : State).calls
      = feedCalls (twoSegments.flatMap (fun g => g.1 ++ (encodeFrame g.2).toList)) ++ [] :=
  ⟨rfl, by decide, (List.append_nil _).symm⟩

theorem witness_CorruptionOfEqualLengthCostsOnlyItsOwnFrame :
    (st idle 0).P.st = .waitStart ∧ ((encodeFrame f1).set 27 0x54).get 0 = 0xAA ∧
    validFrame ((encodeFrame f1).set 27 0x54) = false ∧
    ∃ cs, cs = feedCalls (((encodeFrame f1).set 27 0x54).toList ++ (encodeFrame t1).toList) ∧
      ({ st idle 0 with calls := cs } : State).calls = cs := by
  refine ⟨rfl, by decide +kernel, by decide +kernel, _, rfl, rfl⟩

theorem witness_ATruncatedFrameCostsTheNextFrame :
    (st idle 0).P.st = .waitStart ∧ (f1Body.toList.tail ++ [0xAB, 0x10, 0x55] : List Byte).length = 26 ∧
    (∀ b ∈ (encodeFrame f1).toList.tail, b ≠ 0xAA) ∧
    ∃ cs, cs = feedCalls (0xAA :: (f1Body.toList.tail ++ [0xAB, 0x10, 0x55]) ++ (encodeFrame f1).toList) ∧
      ({ st idle 0 with calls := cs } : State).calls = cs :=
  ⟨rfl, by decide, by decide +kernel, _, rfl, rfl⟩

theorem witness_EverySingleBitFlipOfABodyIsRejected :
    (st idle 0).P.st = .waitStart ∧ (0 < 24 ∧ 0 < 8) ∧ (23 < 24 ∧ 7 < 8) ∧
    ∃ cs, cs = feedCalls ((encodeFrame f1).set 24 ((encodeFrame f1).get 24 ^^^ (0x01#8 <<< 7))).toList ∧
      ({ st idle 0 with calls := cs } : State).calls = cs :=
  ⟨rfl, by decide, by decide, _, rfl, rfl⟩

theorem witness_ExchangedCrcBytesAreDroppedExactlyWhenTheyDiffer :
    (st idle 0).P.st = .waitStart ∧ (encodeFrame f1).get 25 ≠ (encodeFrame f1).get 26 ∧
    (encodeFrame (fr 0x05 0x40 0x00 [0x70] 0x00)).get 25 = (encodeFrame (fr 0x05 0x40 0x00 [0x70] 0x00)).get 26 ∧
    ∃ cs, cs = feedCalls (((encodeFrame f1).set 25 ((encodeFrame f1).get 26)).set 26 ((encodeFrame f1).get 25)).toList ∧
      ({ st idle 0 with calls := cs } : State).calls = cs :=
  ⟨rfl, by decide +kernel, by decide +kernel, _, rfl, rfl⟩

theorem witness_NodeReceivesAnEncodedFrame :
    (st idle 0x07).cfg.wf = true ∧ (st idle 0x07).P.st = .waitStart ∧
    ({ st idle 0x07 with calls := rxCalls (encodeFrame t11).toList ++ [[0x00]] } : State).calls =
      rxCalls (encodeFrame t11).toList ++ [[0x00]] := ⟨by decide, rfl, rfl⟩

theorem witness_SendAndHelloLinesTransmitOneEncodedFrame :
    (wide 255 255 255 255 255).inRange = true ∧ (wide 0 0 0 0 256).inRange = false ∧ State.reset.cfg.wf = true := by
  decide

end Sys2Proof.Tests
end

section
/-! Proofs about the CRC-16 generator (40_crc.md): the equations of `crc16`, `crcShift` and `crcStep`, and what the
operation CRC16 does to the state. -/

namespace Sys2Proof.Machine

/-- 40_crc.md R46: the register starts at CRC_INIT. -/
@[simp] theorem crc16_nil : crc16 [] = 0xFFFF := rfl

/-- 40_crc.md R46: the bytes are taken in list order, so the last one updates the CRC of those before it. -/
@[simp] theorem crc16_concat (bytes : List Byte) (b : Byte) : crc16 (bytes ++ [b]) = crcStep (crc16 bytes) b := by
  unfold crc16
  exact List.foldl_concat crcStep crcInit b bytes

/-- 40_crc.md R45: one bit step, with the polynomial written out. -/
theorem crcShift_eq : crcShift = fun r : U16 => if r.getLsbD 15 = true then (r <<< 1) ^^^ 0x1021 else r <<< 1 := rfl

/-- 40_crc.md R45: the byte goes into the top half of the register, and eight bit steps follow. -/
theorem crcStep_eq_repeat (c : U16) (b : Byte) :
    crcStep c b = Nat.repeat crcShift 8 (c ^^^ (b.setWidth 16 <<< 8)) := rfl

/-- The operation CRC16 completes on every list and only reports the CRC. -/
@[simp] theorem exec_crc16 (bytes : List Byte) (s : State) :
    exec (.crc16 bytes) s = .next (s.report (.crc (crc16 bytes)) []) := rfl

/-- Settles O6: the register after `bytes` is `crc16 bytes`, and `crc16_concat` takes it over one more byte. -/
theorem crc16FoldsTheBitLoopOverTheBytes : Obligations.Crc16FoldsTheBitLoopOverTheBytes := by
  intro s bytes b
  refine ⟨?_, ⟨crc16 bytes, exec_crc16 bytes s, ?_⟩, fun c => ?_⟩
  · rw [exec_crc16, crc16_nil]
  · rw [exec_crc16, crc16_concat]
  · rw [crcStep_eq_repeat, crcShift_eq]

end Sys2Proof.Machine
end

section
/-! Proofs about the frame encoder (41_codec.md): what ENCODE's range check says, and what the operation ENCODE does to
the state on either side of it. -/

namespace Sys2Proof.Machine

/-- 41_codec.md R54: the range check as the proposition it decides, one conjunct per field. -/
theorem inRange_iff (w : WideFrame) :
    w.inRange = true ↔
      w.address < 256 ∧ w.serverCommand < 256 ∧ w.deviceCommand < 256 ∧
        (∀ p ∈ w.parameters.toList, p < 256) ∧ w.reserved < 256 := by
  simp only [WideFrame.inRange, Bool.and_eq_true, decide_eq_true_eq, List.all_eq_true, and_assoc]

/-- ENCODE of a frame in range completes and only reports the wire bytes. -/
theorem exec_encodeFrame_of_inRange {w : WideFrame} (h : w.inRange = true) (s : State) :
    exec (.encodeFrame w) s = .next (s.report (.wire (encodeFrame w.narrow)) []) := if_pos h

/-- ENCODE of a frame out of range is refused by name. -/
theorem exec_encodeFrame_of_not_inRange {w : WideFrame} (h : ¬ w.inRange = true) (s : State) :
    exec (.encodeFrame w) s = .refused .fieldOutOfRange := if_neg h

/-- Settles O9: `inRange_iff` turns the statement's condition into the check that ENCODE branches on. -/
theorem encodeIsTotalInRangeAndRefusesOutside : Obligations.EncodeIsTotalInRangeAndRefusesOutside := by
  intro s w
  rw [← inRange_iff]
  exact ⟨fun h => ⟨encodeFrame w.narrow, exec_encodeFrame_of_inRange h s⟩,
    fun h => exec_encodeFrame_of_not_inRange h s⟩

end Sys2Proof.Machine
end

section
/-! Proofs about the stream parser's rows (42_parser.md R58 to R62): what each row does to the state where the block
selects it, and what the OR of R60 does to the two halves of the received CRC. -/

namespace Sys2Proof.Machine

variable {s : State} {b : Byte}

theorem whenSelected_of_selected {i : Instr} {n : String} {k : Step} (h : selected i s = true) :
    whenSelected i n s k = k := if_pos h

/-- 42_parser.md R58: in ReadFrame the row stores any byte. -/
theorem exec_feedReadFrame (h : s.P.st = .readFrame) (b : Byte) :
    exec (.feedReadFrame b) s = s.fed (feedReadFrame s.P b) :=
  whenSelected_of_selected (by simp [selected, h])

/-- 42_parser.md R59: in ReadCrcLow the row takes any byte. -/
theorem exec_feedReadCrcLow (h : s.P.st = .readCrcLow) (b : Byte) :
    exec (.feedReadCrcLow b) s = s.fed (feedReadCrcLow s.P b) :=
  whenSelected_of_selected (by simp [selected, h])

/-- 42_parser.md R60: in ReadCrcHigh the row takes any byte. -/
theorem exec_feedReadCrcHigh (h : s.P.st = .readCrcHigh) (b : Byte) :
    exec (.feedReadCrcHigh b) s = s.fed (feedReadCrcHigh s.P b) :=
  whenSelected_of_selected (by simp [selected, h])

/-- 42_parser.md R62: in WaitEnd a wrong end byte drops the frame, whatever its CRC. -/
theorem exec_feedWaitEndBadEnd (h : s.P.st = .waitEnd) (hb : b ≠ 0x55) :
    exec (.feedWaitEndBadEnd b) s = s.fed (toWaitStart s.P, none) :=
  whenSelected_of_selected (by simpa [selected, h, endByte] using hb)

/-- 42_parser.md R62: in WaitEnd a CRC mismatch drops the frame. -/
theorem exec_feedWaitEndBadCrc (h : s.P.st = .waitEnd) (hc : crc16 s.P.buf.toList ≠ s.P.rxCrc) :
    exec .feedWaitEndBadCrc s = s.fed (toWaitStart s.P, none) :=
  whenSelected_of_selected (by simpa [selected, h, crcMatches] using hc)

/-- 42_parser.md R60: the shifted byte is OR-ed into bits 15:8. -/
theorem extractLsb'_high_or_shiftLeft (c : U16) (b : Byte) :
    (c ||| (b.setWidth 16 <<< 8)).extractLsb' 8 8 = c.extractLsb' 8 8 ||| b := by
  ext i hi
  have h8 : 8 + i < 16 := by omega
  simp [BitVec.getLsbD_eq_getElem hi, h8]

/-- 42_parser.md R60: the shifted byte does not reach bits 7:0. -/
theorem extractLsb'_low_or_shiftLeft (c : U16) (b : Byte) :
    (c ||| (b.setWidth 16 <<< 8)).extractLsb' 0 8 = c.extractLsb' 0 8 := by
  ext i hi
  simp [hi]

/-- Settles O14: the row leaves what `feedReadFrame_spec` says field by field. -/
theorem readFrameStoresEveryByte : Obligations.ReadFrameStoresEveryByte := by
  intro s b h
  obtain ⟨hnone, hfields⟩ := feedReadFrame_spec h b
  refine ⟨(feedReadFrame s.P b).1, ?_, hfields⟩
  rw [exec_feedReadFrame h, State.fed, hnone]

/-- Settles O15: where the high half is 0, OR-ing the byte into it assigns the byte. -/
theorem crcByteRowsAssembleTheReceivedCrc : Obligations.CrcByteRowsAssembleTheReceivedCrc := by
  intro s b
  refine ⟨fun h => ⟨(feedReadCrcLow s.P b).1, exec_feedReadCrcLow h b, rfl, rfl, rfl, rfl⟩,
    fun h => ⟨(feedReadCrcHigh s.P b).1, exec_feedReadCrcHigh h b, rfl, rfl, rfl, rfl, fun h0 => ⟨?_, ?_⟩⟩⟩
  · calc (s.P.rxCrc ||| (b.setWidth 16 <<< 8)).extractLsb' 8 8
        = s.P.rxCrc.extractLsb' 8 8 ||| b := extractLsb'_high_or_shiftLeft _ _
      _ = b := by rw [h0, BitVec.ofNat_eq_ofNat, BitVec.zero_or]
  · exact extractLsb'_low_or_shiftLeft _ _

/-- Settles O17: both rows leave `toWaitStart s.P` and return `None`. -/
theorem waitEndFailureDropsSilently : Obligations.WaitEndFailureDropsSilently := by
  intro s h
  exact ⟨toWaitStart s.P, toWaitStart_st _, toWaitStart_buf _, toWaitStart_idx _, toWaitStart_rxCrc _,
    fun _ hb => exec_feedWaitEndBadEnd h hb, fun hc => exec_feedWaitEndBadCrc h hc⟩

end Sys2Proof.Machine
end

section
/-! Proofs about the classifier (43_classifier.md R68): the four ranges of command bytes, one lemma per class. -/

namespace Sys2Proof.Machine

variable {c : Byte}

theorem classify_of_toNat_eq_zero (h : c.toNat = 0) : classify c = .absent :=
  if_pos (BitVec.eq_of_toNat_eq h)

theorem classify_of_core_range (h1 : 1 ≤ c.toNat) (h2 : c.toNat ≤ 0x3F) : classify c = .core := by
  have h0 : c ≠ 0x00 := by bv_omega
  have hr : 0x01 ≤ c ∧ c ≤ 0x3F := ⟨h1, h2⟩
  rw [classify, if_neg h0, if_pos hr]

theorem classify_of_serverCmd_range (h1 : 0x40 ≤ c.toNat) (h2 : c.toNat ≤ 0x7F) : classify c = .serverCmd := by
  have h0 : c ≠ 0x00 := by bv_omega
  have hcore : ¬ (0x01 ≤ c ∧ c ≤ 0x3F) := by bv_omega
  have hr : 0x40 ≤ c ∧ c ≤ 0x7F := ⟨h1, h2⟩
  rw [classify, if_neg h0, if_neg hcore, if_pos hr]

theorem classify_of_deviceEvent_range (h : 0x80 ≤ c.toNat) : classify c = .deviceEvent := by
  have h0 : c ≠ 0x00 := by bv_omega
  have hcore : ¬ (0x01 ≤ c ∧ c ≤ 0x3F) := by bv_omega
  have hserver : ¬ (0x40 ≤ c ∧ c ≤ 0x7F) := by bv_omega
  rw [classify, if_neg h0, if_neg hcore, if_neg hserver]

/-- The operation CLASSIFY completes on every byte and only reports its class. -/
theorem exec_classify (c : Byte) (s : State) :
    exec (.classify c) s = .next (s.report (.cls (classify c)) []) := rfl

/-- Settles O21: each branch of the range test is the range of one class. -/
theorem classifyByRange : Obligations.ClassifyByRange := by
  intro s c
  rw [exec_classify]
  split_ifs with hzero hcore hserver
  · rw [classify_of_toNat_eq_zero hzero]
  · rw [classify_of_core_range (by omega) hcore]
  · rw [classify_of_serverCmd_range (by omega) hserver]
  · rw [classify_of_deviceEvent_range (by omega)]

end Sys2Proof.Machine
end

section
/-! Proofs about frames the node ignores (44_router.md R78, R86): what a router row reports is what ROUTE gives, and an
RX_STEP that gets nothing out of its frame only moves the parser. -/

namespace Sys2Proof.Machine

variable {s : State} {m : Byte} {f : Frame}

/-- 44_router.md R74: with a well-formed `Cfg`, ROUTE completes on every frame and only reports its events. -/
theorem exec_route (h : s.cfg.wf = true) (m : Byte) (f : Frame) :
    exec (.route m f) s = .next (s.report .done (route s.cfg (s.ctx m) f)) := if_pos h

/-- 44_router.md R78: the row's condition is its code and a rejected address in the first parameter. -/
theorem exec_coreSetAddressInvalid (h : s.cfg.wf = true) (hd : f.deviceCommand = s.cfg.cmdSetAddress)
    (ha : rejectedAddress (f.parameters.get 0) = true) (m : Byte) :
    exec (.coreSetAddressInvalid m f) s = .next (s.report .done []) :=
  withCfg_eq_next.mpr ⟨h, whenSelected_eq_next.mpr ⟨by simp [selected, hd, ha], rfl⟩⟩

/-- 44_router.md R86: the row's condition is an address that is neither the node's own nor broadcast. -/
theorem exec_rxStepNotForMe {a : Byte} (h : ¬ (a = s.myAddress ∨ a = 0xFE)) :
    exec (.rxStepNotForMe a) s = .next (s.report .done []) :=
  whenSelected_eq_next.mpr ⟨by simpa [selected] using mt (isForMe_iff a s.myAddress).mp h, rfl⟩

/-- 44_router.md R78: ROUTE gives what the row reports (`routerRow_next`), and the row reports nothing. -/
theorem route_of_rejectedSetAddress (h : s.cfg.wf = true) (hd : f.deviceCommand = s.cfg.cmdSetAddress)
    (ha : rejectedAddress (f.parameters.get 0) = true) (m : Byte) : route s.cfg (s.ctx m) f = [] := by
  obtain ⟨-, hreport⟩ := routerRow_next (m := m) (f := f) (exec_coreSetAddressInvalid h hd ha m) (by simp)
  simpa using congrArg State.trace hreport

/-- A frame that routes to no event leaves the address, whether or not it is for this node. -/
theorem receive_of_route_nil {cfg : Cfg} {ctx : Ctx} (h : route cfg ctx f = []) :
    receive cfg ctx f = (ctx.myAddress, []) := by
  by_cases hme : f.address = ctx.myAddress ∨ f.address = 0xFE
  · rw [receive_of_forMe hme, h, adopt]
  · exact receive_of_notForMe hme

/-- An RX_STEP whose completed frame gives no event and no new address only replaces `P`. -/
theorem exec_rxStep_of_receive_nil {b : Byte} (h : s.cfg.wf = true) (hf : (feed s.P b).2 = some f)
    (hr : receive s.cfg (s.ctx s.myAddress) f = (s.myAddress, [])) :
    exec (.rxStep .between b) s = .next ({ s with P := (feed s.P b).1 }.report .done []) := by
  rw [exec_rxStep h, rxStep_of_some _ _ hf, hr, State.received]

/-- Settles O26: the row reports nothing, so ROUTE gives no event, so RX_STEP has none to report and none to adopt. -/
theorem invalidSetAddressIsIgnored : Obligations.InvalidSetAddressIsIgnored := by
  intro s m f hw hd ha
  have hrej := (rejectedAddress_iff _).mpr ha
  refine ⟨exec_coreSetAddressInvalid hw hd hrej m, ?_, fun b hf => ?_⟩
  · rw [exec_route hw, route_of_rejectedSetAddress hw hd hrej]
  · have hnil := route_of_rejectedSetAddress hw hd hrej s.myAddress
    exact exec_rxStep_of_receive_nil hw hf (receive_of_route_nil hnil)

/-- Settles O32: FEED returns a frame only from the transition to WaitStart (`feed_some`), and a frame for another node
is not routed (`receive_of_notForMe`). -/
theorem frameNotForThisNodeIsIgnored : Obligations.FrameNotForThisNodeIsIgnored := by
  intro s f hown hbroadcast
  have hnot : ¬ (f.address = s.myAddress ∨ f.address = 0xFE) := not_or.mpr ⟨hown, hbroadcast⟩
  refine ⟨exec_rxStepNotForMe hnot, fun hw b hf => ⟨?_, ?_⟩⟩
  · obtain ⟨-, -, -, hfeed, -⟩ := feed_some hf
    rw [hfeed, toWaitStart_st]
  · exact exec_rxStep_of_receive_nil hw hf (receive_of_notForMe hnot)

end Sys2Proof.Machine
end

section
/-! Proofs about the call records (log entry 2): what each operand reader accepts, that a row's parser inverts the
encoder, and that the decoder answers nothing but what the encoder writes, bare table words apart. -/

namespace Sys2Proof

open Machine

/-! ### The operand readers: what each of them accepts -/

theorem noOperands_eq_ok {ops : List Byte} {i j : Instr} : noOperands ops i = .ok j ↔ ops = [] ∧ i = j := by
  by_cases h : ops = [] <;> simp [noOperands, h]

theorem fixedLead_eq_ok {want lead : Byte} {ops : List Byte} {i j : Instr} :
    fixedLead want lead ops i = .ok j ↔ lead = want ∧ ops = [] ∧ i = j := by
  by_cases h : lead = want <;> simp [fixedLead, h, noOperands_eq_ok]

theorem oneOperand_eq_ok {ops : List Byte} {k : Byte → Except DecodeError Instr} {j : Instr} :
    oneOperand ops k = .ok j ↔ ∃ x, ops = [x] ∧ k x = .ok j := by
  unfold oneOperand
  split
  · simp
  · next h => simp only [reduceCtorEq, false_iff]; rintro ⟨x, rfl, -⟩; exact h x rfl

/-- A list is its values but the last, and the last: 21 values are a parameter block and a reserved value. -/
theorem take_append_getElem_of_length_eq {α : Type} {l : List α} {n : Nat} (h : l.length = n + 1) :
    l.take n ++ [l[n]] = l := by
  rw [← List.take_succ_eq_append_getElem, List.take_of_length_le (by omega)]

theorem frameOperands_eq_ok {d : Byte} {ops : List Byte} {k : Byte → Frame → Instr} {j : Instr} :
    frameOperands d ops k = .ok j ↔ ∃ m f, f.deviceCommand = d ∧ frameBytes m f = ops ∧ k m f = j := by
  constructor
  · intro h
    unfold frameOperands at h
    split at h
    · split at h
      · next m a s tail hl =>
        refine ⟨m, _, rfl, ?_, by simpa using h⟩
        rw [frameBytes, take_append_getElem_of_length_eq hl]
      · cases h
    · cases h
  · rintro ⟨m, f, rfl, rfl, rfl⟩
    simp [frameOperands, frameBytes]

/-- Numbers below 2^16 survive the pair encoding. -/
theorem readPairs_writePairs {l : List Nat} (h : ∀ x ∈ l, x < 65536) : readPairs (writePairs l) = some l := by
  induction l with
  | nil => rfl
  | cons x l ih =>
    rw [List.forall_mem_cons] at h
    have hx : x % 256 + 256 * (x / 256 % 256) = x := by omega
    simp [writePairs, readPairs, ih h.2, hx]

/-- Every even number of bytes is the pair encoding of what it reads as. -/
theorem writePairs_readPairs {ops : List Byte} {l : List Nat} (h : readPairs ops = some l) : writePairs l = ops := by
  induction ops using readPairs.induct generalizing l with
  | case1 => cases h; rfl
  | case2 => cases h
  | case3 lo hi rest ih =>
    obtain ⟨t, ht, rfl⟩ := Option.map_eq_some_iff.mp h
    have hlo : BitVec.ofNat 8 (lo.toNat + 256 * hi.toNat) = lo := by bv_omega
    have hhi : BitVec.ofNat 8 ((lo.toNat + 256 * hi.toNat) / 256) = hi := by bv_omega
    rw [writePairs, hlo, hhi, ih ht]

theorem wideBytes_of_wideOperand {ops : List Byte} {j : Instr} (h : wideOperand ops = .ok j) :
    ∃ f, wideBytes f = ops ∧ .encodeFrame f = j := by
  unfold wideOperand at h
  split at h
  · next a s d tail hr =>
    split at h
    · next hl =>
      refine ⟨_, ?_, by simpa using h⟩
      rw [wideBytes, take_append_getElem_of_length_eq hl, writePairs_readPairs hr]
    · cases h
  · cases h

theorem wideOperand_wideBytes {f : WideFrame} (h : f.inRange = true) :
    wideOperand (wideBytes f) = .ok (.encodeFrame f) := by
  obtain ⟨ha, hs, hd, hp, hr⟩ := (inRange_iff f).mp h
  have hall : ∀ x ∈ f.address :: f.serverCommand :: f.deviceCommand :: (f.parameters.toList ++ [f.reserved]),
      x < 65536 := by
    intro x hx
    have hx : x = f.address ∨ x = f.serverCommand ∨ x = f.deviceCommand ∨ x ∈ f.parameters.toList ∨ x = f.reserved := by
      simpa using hx
    rcases hx with rfl | rfl | rfl | hx | rfl
    case inr.inr.inr.inl => have := hp x hx; omega
    all_goals omega
  simp [wideOperand, wideBytes, readPairs_writePairs hall]

theorem momentOperand_eq_ok {ops : List Byte} {k : Moment → Instr} {j : Instr} :
    momentOperand ops k = .ok j ↔ ∃ x, [momentByte x] = ops ∧ k x = j := by
  rw [momentOperand, oneOperand_eq_ok]
  constructor
  · rintro ⟨x, rfl, h⟩
    split_ifs at h with h0 h1 h2 h3
    · exact ⟨.between, by rw [h0]; rfl, by simpa using h⟩
    · exact ⟨.concurrent, by rw [h1]; rfl, by simpa using h⟩
    · exact ⟨.insideCallback, by rw [h2]; rfl, by simpa using h⟩
    · exact ⟨.duringTx, by rw [h3]; rfl, by simpa using h⟩
  · rintro ⟨x, rfl, rfl⟩
    exact ⟨_, rfl, by cases x <;> rfl⟩

theorem loadOperand_eq_ok {lead : Byte} {ops : List Byte} {j : Instr} :
    loadOperand lead ops = .ok j ↔ ∃ load, recordParts (.reset load) = (lead, ops) ∧ .reset load = j := by
  rw [loadOperand, oneOperand_eq_ok]
  constructor
  · rintro ⟨x, rfl, h⟩
    split_ifs at h with h1 h0 hlead
    · exact ⟨some lead, by rw [h1]; rfl, by simpa using h⟩
    · exact ⟨none, by rw [h0, hlead]; rfl, by simpa using h⟩
  · rintro ⟨load, hparts, rfl⟩
    obtain ⟨rfl, rfl⟩ := Prod.mk.inj hparts
    cases load with
    | none => exact ⟨0, rfl, rfl⟩
    | some v => exact ⟨1, rfl, rfl⟩

theorem ofList?_eq_some {α : Type} {n : Nat} {l : List α} {a : Arr α n} : Arr.ofList? n l = some a ↔ a.toList = l := by
  unfold Arr.ofList?
  split
  · next h => simp [Arr.ext_iff, eq_comm]
  · next h => simp only [reduceCtorEq, false_iff]; rintro rfl; exact h a.size

/-! ### Rows and records -/

theorem wellFormed_iff (i : Instr) : WellFormed i = true ↔ problemOf i = none := by
  rw [WellFormed, Option.isNone_iff_eq_none]

/-- Only ENCODE's record can lose something of its operands: numbers out of its range. -/
theorem parseRow_recordParts {i : Instr} (h : WellFormed i = true) :
    parseRow (recordParts i).1 (rowNumber i) (recordParts i).2 = .ok i := by
  cases i with
  | feedWaitStartStart | feedWaitEndAccept | feedWaitEndBadCrc | classAbsent =>
    exact fixedLead_eq_ok.mpr ⟨rfl, rfl, rfl⟩
  | feedWaitStartSkip | feedReadFrame | feedReadCrcLow | feedReadCrcHigh | feedWaitEndBadEnd | classCore
  | classServerCmd | classDeviceEvent | rxStepNotForMe | classify | makeHello => exact noOperands_eq_ok.mpr ⟨rfl, rfl⟩
  | corePing m f | coreReset m f | coreSetAddressValid m f | coreSetAddressInvalid m f | coreHello m f | coreAck m f
  | coreUnrecognized m f | routeForward m f | route m f => exact frameOperands_eq_ok.mpr ⟨m, f, rfl, rfl, rfl⟩
  | crc16 => rfl
  | encodeFrame f =>
    have hr : f.inRange = true := by
      by_contra hn
      simp [wellFormed_iff, problemOf, hn] at h
    exact wideOperand_wideBytes hr
  | unpack b =>
    have hb : Arr.ofList? 24 b.toList = some b := ofList?_eq_some.mpr rfl
    simp [parseRow, recordParts, rowNumber, hb]
  | feed x b => exact momentOperand_eq_ok (k := (.feed · b)).mpr ⟨x, rfl, rfl⟩
  | rxStep x b => exact momentOperand_eq_ok (k := (.rxStep · b)).mpr ⟨x, rfl, rfl⟩
  | isForMe a m => rfl
  | reset load => exact loadOperand_eq_ok.mpr ⟨load, rfl, rfl⟩

/-- What a row's parser accepts is the encoder's record of its answer. -/
theorem encode_of_parseRow {lead row : Byte} {ops : List Byte} {i : Instr} (h : parseRow lead row ops = .ok i) :
    encode i = lead :: row :: ops := by
  have hrow : row = BitVec.ofNat 8 row.toNat := by simp
  rw [hrow]
  unfold parseRow at h
  generalize row.toNat = n at h ⊢
  split at h
  case h_1 | h_6 | h_8 | h_9 => obtain ⟨rfl, rfl, rfl⟩ := fixedLead_eq_ok.mp h; rfl
  case h_13 | h_14 | h_15 | h_16 | h_17 | h_18 | h_19 | h_20 | h_28 =>
    obtain ⟨m, f, rfl, rfl, rfl⟩ := frameOperands_eq_ok.mp h; rfl
  case h_25 | h_30 => obtain ⟨x, rfl, rfl⟩ := momentOperand_eq_ok.mp h; rfl
  case h_22 =>
    split_ifs at h with hlead
    obtain rfl := Except.ok.inj h
    rw [hlead]; rfl
  case h_23 =>
    split_ifs at h with hlead
    obtain ⟨f, rfl, rfl⟩ := wideBytes_of_wideOperand h
    rw [hlead]; rfl
  case h_24 =>
    split_ifs at h with hlead
    split at h
    · next b hb =>
      obtain rfl := ofList?_eq_some.mp hb
      obtain rfl := Except.ok.inj h
      rw [hlead]; rfl
    · cases h
  case h_27 =>
    obtain ⟨m, rfl, hm⟩ := oneOperand_eq_ok.mp h
    obtain rfl := Except.ok.inj hm
    rfl
  case h_31 =>
    obtain ⟨load, hparts, rfl⟩ := loadOperand_eq_ok.mp h
    rw [encode, hparts]; rfl
  case h_32 => cases h
  all_goals obtain ⟨rfl, rfl⟩ := noOperands_eq_ok.mp h; rfl

theorem decode_eq_ok {r : List Byte} {i : Instr} :
    decode r = .ok i ↔ parseRecord r = .ok i ∧ WellFormed i = true := by
  rw [wellFormed_iff, decode]
  cases hp : parseRecord r with
  | error e => simp
  | ok j =>
    cases hj : problemOf j with
    | none =>
      simp only [Except.ok.injEq, hj]
      exact ⟨fun h => ⟨h, h ▸ hj⟩, And.left⟩
    | some e =>
      simp only [Except.ok.injEq, hj, reduceCtorEq, false_iff]
      rintro ⟨rfl, hi⟩
      simp [hj] at hi

/-- Settles O1: the record's row number sends it to the parser of its own row (`parseRow_recordParts`). -/
theorem decodeOfEncodeIsTheInstruction : Obligations.DecodeOfEncodeIsTheInstruction :=
  fun _ h => decode_eq_ok.mpr ⟨parseRow_recordParts h, h⟩

/-- Settles O2: only a one-byte record escapes the rows' parsers, which accept nothing but the encoder's records. -/
theorem decodedRecordsAreWellFormedAndExact : Obligations.DecodedRecordsAreWellFormedAndExact := by
  intro r i h
  obtain ⟨hparse, hwf⟩ := decode_eq_ok.mp h
  refine ⟨hwf, ?_⟩
  match r, hparse with
  | [w], _ => exact .inl rfl
  | _ :: _ :: _, hparse => exact .inr (encode_of_parseRow hparse)

end Sys2Proof
end

section
/-! Proofs of the derived properties of CRC16 (40_crc.md R49): the bit step is linear and has a trivial kernel, so the
fold over the bytes is affine in the data, and injective in the register and in each byte. -/

namespace Sys2Proof.Machine

/-! ### Point 1: linearity -/

theorem crcShift_xor (a b : U16) : crcShift (a ^^^ b) = crcShift a ^^^ crcShift b := by
  unfold crcShift
  rw [BitVec.getLsbD_xor]
  have hshift : (a ^^^ b) <<< 1 = a <<< 1 ^^^ b <<< 1 := BitVec.shiftLeft_xor_distrib a b 1
  rw [hshift]
  cases a.getLsbD 15 <;> cases b.getLsbD 15
  case false.false => rfl
  case false.true => simp [BitVec.xor_assoc]
  case true.false => simp [BitVec.xor_assoc, BitVec.xor_comm crcPoly]
  case true.true =>
    simp only [bne_self_eq_false, Bool.false_eq_true, if_false, if_true]
    rw [BitVec.xor_assoc, BitVec.xor_comm (b <<< 1), ← BitVec.xor_assoc crcPoly, BitVec.xor_self, BitVec.zero_xor]

theorem repeat_crcShift_xor (n : Nat) (a b : U16) :
    Nat.repeat crcShift n (a ^^^ b) = Nat.repeat crcShift n a ^^^ Nat.repeat crcShift n b := by
  induction n with
  | zero => rfl
  | succ n ih => simp only [Nat.repeat, ih, crcShift_xor]

theorem xor_xor_xor_comm {n : Nat} (a b c d : BitVec n) : (a ^^^ b) ^^^ (c ^^^ d) = (a ^^^ c) ^^^ (b ^^^ d) := by
  ac_rfl

theorem crcStep_xor (c d : U16) (x y : Byte) : crcStep (c ^^^ d) (x ^^^ y) = crcStep c x ^^^ crcStep d y := by
  have hbyte : (x ^^^ y).setWidth 16 <<< 8 = (x.setWidth 16 <<< 8 : U16) ^^^ (y.setWidth 16 <<< 8) := by
    rw [BitVec.setWidth_xor, BitVec.shiftLeft_xor_distrib]
  rw [crcStep_eq_repeat, hbyte, xor_xor_xor_comm, repeat_crcShift_xor]
  rfl

/-- The register after byte-wise XOR-ed data is the XOR of the registers. -/
theorem foldl_crcStep_xor {x y : List Byte} (h : x.length = y.length) (c d : U16) :
    (List.zipWith (· ^^^ ·) x y).foldl crcStep (c ^^^ d) = x.foldl crcStep c ^^^ y.foldl crcStep d := by
  induction x generalizing y c d with
  | nil => obtain rfl := List.length_eq_zero_iff.mp h.symm; rfl
  | cons a x ih =>
    cases y with
    | nil => cases h
    | cons b y =>
      simp only [List.zipWith_cons_cons, List.foldl_cons, crcStep_xor]
      exact ih (Nat.succ.inj h) _ _

theorem zipWith_xor_zeros (l : List Byte) : List.zipWith (· ^^^ ·) l (List.replicate l.length 0x00) = l := by
  induction l with
  | nil => rfl
  | cons b l ih => simpa [List.replicate_succ] using ih

/-- Settles O7: three linear folds, whose registers start at CRC_INIT, and the XOR of three CRC_INIT is CRC_INIT. -/
theorem crc16IsAffineInTheData : Obligations.Crc16IsAffineInTheData := by
  intro x y h
  have hlen : (List.zipWith (· ^^^ ·) x y).length = x.length := by simp [h]
  have hinit : crcInit = crcInit ^^^ crcInit ^^^ crcInit := by decide
  calc crc16 (List.zipWith (· ^^^ ·) x y)
      = (List.zipWith (· ^^^ ·) (List.zipWith (· ^^^ ·) x y) (List.replicate x.length 0x00)).foldl crcStep
          (crcInit ^^^ crcInit ^^^ crcInit) := by rw [← hinit, ← hlen, zipWith_xor_zeros, crc16]
    _ = crc16 x ^^^ crc16 y ^^^ crc16 (List.replicate x.length 0x00) := by
        rw [foldl_crcStep_xor (by simp [h]), foldl_crcStep_xor h]; rfl

/-! ### Point 2: injectivity -/

/-- CRC_POLY has bit 0 set, which a shifted register has not, so only the zero register steps to zero. -/
theorem eq_zero_of_crcShift_eq_zero {c : U16} (h : crcShift c = 0) : c = 0 := by
  unfold crcShift at h
  split at h
  case isTrue =>
    have h0 := congrArg (·.getLsbD 0) h
    simp [crcPoly] at h0
  case isFalse htop =>
    ext i hi
    by_cases h15 : i = 15
    · subst h15; simpa using htop
    · have hbit := congrArg (·.getLsbD (i + 1)) h
      have hi' : i + 1 < 16 := by omega
      simpa [hi', BitVec.getLsbD_eq_getElem hi] using hbit

theorem crcShift_injective : Function.Injective crcShift := by
  intro a b h
  have hzero : crcShift (a ^^^ b) = 0 := by rw [crcShift_xor, h, BitVec.xor_self]; rfl
  exact BitVec.xor_eq_zero_iff.mp (eq_zero_of_crcShift_eq_zero hzero)

theorem repeat_crcShift_injective (n : Nat) : Function.Injective (Nat.repeat crcShift n) := by
  induction n with
  | zero => exact fun _ _ h => h
  | succ n ih => exact fun _ _ h => ih (crcShift_injective h)

theorem crcStep_injective_register (b : Byte) : Function.Injective (crcStep · b) :=
  fun _ _ h => (BitVec.xor_left_inj _).mp (repeat_crcShift_injective 8 h)

theorem crcStep_injective_byte (c : U16) : Function.Injective (crcStep c) := by
  intro x y h
  have htop : x.setWidth 16 <<< 8 = (y.setWidth 16 <<< 8 : U16) :=
    (BitVec.xor_right_inj _).mp (repeat_crcShift_injective 8 h)
  calc x = ((0 : U16) ||| x.setWidth 16 <<< 8).extractLsb' 8 8 := by rw [extractLsb'_high_or_shiftLeft]; simp
    _ = ((0 : U16) ||| y.setWidth 16 <<< 8).extractLsb' 8 8 := by rw [htop]
    _ = y := by rw [extractLsb'_high_or_shiftLeft]; simp

theorem foldl_crcStep_injective (l : List Byte) : Function.Injective (l.foldl crcStep) := by
  induction l with
  | nil => exact fun _ _ h => h
  | cons b l ih => exact fun _ _ h => crcStep_injective_register b (ih h)

/-- Any one changed byte changes the CRC. -/
theorem crc16_set_ne {l : List Byte} {k : Nat} {x : Byte} (hk : k < l.length) (hx : x ≠ l[k]) :
    crc16 (l.set k x) ≠ crc16 l := by
  intro h
  have hl : l = l.take k ++ l[k] :: l.drop (k + 1) := by simp
  have hset : l.set k x = l.take k ++ x :: l.drop (k + 1) := by rw [List.set_eq_take_append_cons_drop, if_pos hk]
  rw [hset] at h
  conv at h => rhs; rw [hl]
  simp only [crc16, List.foldl_append, List.foldl_cons] at h
  exact hx (crcStep_injective_byte _ (foldl_crcStep_injective _ h))

/-- A flipped bit changes the byte. -/
theorem xor_bit_ne {j : Nat} (hj : j < 8) (b : Byte) : b ^^^ (0x01#8 <<< j) ≠ b := by
  intro h
  have hbit := congrArg (·.getLsbD j) h
  simp [hj] at hbit

/-- Settles O8: the flip changes one byte (`xor_bit_ne`), and every changed byte shows in the CRC (`crc16_set_ne`). -/
theorem crc16DetectsEverySingleBitFlip : Obligations.Crc16DetectsEverySingleBitFlip :=
  fun body _ _ hk hj => crc16_set_ne (by rw [body.size]; exact hk) (xor_bit_ne hj _)

end Sys2Proof.Machine
end

section
/-! Proofs about the codec's round trip (41_codec.md R53, R55): UNPACK inverts the body, and the body is cut out of the
wire frame. -/

namespace Sys2Proof.Machine

@[simp] theorem slice_wireOf (body : Bytes 24) (lo hi : Byte) : (wireOf body lo hi).slice 1 24 = body := by
  ext1
  simp

@[simp] theorem unpack_bodyOf (f : Frame) : unpack (bodyOf f) = f := by
  obtain ⟨a, s, d, ps, r⟩ := f
  have hps : (bodyOf ⟨a, s, d, ps, r⟩).slice 3 20 = ps := by ext1; simp
  have hr : (bodyOf ⟨a, s, d, ps, r⟩).get 23 = r := by simp [Arr.get]
  simp only [unpack, hps, hr]
  rfl

/-- 41_codec.md R51, R53: what UNPACK finds in ENCODE's body. -/
@[simp] theorem unpack_slice_encodeFrame (f : Frame) : unpack ((encodeFrame f).slice 1 24) = clearReserved f := by
  rw [encodeFrame, slice_wireOf, unpack_bodyOf]

/-- 41_codec.md R55: `reserved` is all that ENCODE forgets. -/
theorem encodeFrame_eq_iff (f g : Frame) : encodeFrame f = encodeFrame g ↔ clearReserved f = clearReserved g := by
  constructor
  · intro h
    rw [← unpack_slice_encodeFrame f, h, unpack_slice_encodeFrame]
  · intro h
    rw [encodeFrame, encodeFrame, h]

/-- Settles O12: UNPACK of the body ENCODE wrote is `clearReserved`, which is therefore what ENCODE determines. -/
theorem encodeIsInvertibleUpToReserved : Obligations.EncodeIsInvertibleUpToReserved :=
  ⟨unpack_slice_encodeFrame, encodeFrame_eq_iff⟩

end Sys2Proof.Machine
end

section
/-! Proofs about FEED as the operation of the parser's rows (42_parser.md R56): each row completes where it is selected,
and FEED is the row that the parser state and the byte select. -/

namespace Sys2Proof.Machine

variable {s : State} {b : Byte}

/-- FEED between operations completes on every state and every byte. -/
theorem exec_feed (b : Byte) (s : State) : exec (.feed .between b) s = s.fed (feed s.P b) := rfl

/-- 42_parser.md R57: in WaitStart the start byte opens a frame. -/
theorem exec_feedWaitStartStart (h : s.P.st = .waitStart) :
    exec .feedWaitStartStart s = s.fed (beginFrame s.P, none) :=
  whenSelected_of_selected (by simp [selected, h])

/-- 42_parser.md R57: in WaitStart any other byte is discarded. -/
theorem exec_feedWaitStartSkip (h : s.P.st = .waitStart) (hb : b ≠ 0xAA) :
    exec (.feedWaitStartSkip b) s = s.fed (s.P, none) := by
  have hsel : selected (.feedWaitStartSkip b) s = true := by simpa [selected, h, startByte] using hb
  have hfeed : feedWaitStart s.P b = (s.P, none) := if_neg hb
  rw [← hfeed]
  exact whenSelected_of_selected hsel

/-- 42_parser.md R61: in WaitEnd an equal CRC emits the buffered frame. -/
theorem exec_feedWaitEndAccept (h : s.P.st = .waitEnd) (hc : crc16 s.P.buf.toList = s.P.rxCrc) :
    exec .feedWaitEndAccept s = s.fed (toWaitStart s.P, some (unpack s.P.buf)) :=
  whenSelected_of_selected (by simp [selected, h, crcMatches, hc])

/-- 30_encoding.md R43 point 1: the row FEED resolves to does what FEED does. -/
theorem exec_parserRow (s : State) (b : Byte) : exec (parserRow s.P b) s = s.fed (feed s.P b) := by
  unfold parserRow
  rcases feed_cases s.P b with ⟨hs, rfl, hf⟩ | ⟨hs, hb, hf⟩ | ⟨hs, hf⟩ | ⟨hs, hf⟩ | ⟨hs, hf⟩ | ⟨hs, rfl, hc, hf⟩ |
      ⟨hs, hbad, hf⟩ <;> rw [hf, hs]
  · exact exec_feedWaitStartStart hs
  · exact (congrArg (exec · s) (if_neg hb)).trans (exec_feedWaitStartSkip hs hb)
  · exact exec_feedReadFrame hs b
  · exact exec_feedReadCrcLow hs b
  · exact exec_feedReadCrcHigh hs b
  · simpa [endByte, crcMatches, hc] using exec_feedWaitEndAccept hs hc
  · by_cases hb : b = 0x55
    · have hc := hbad.resolve_left (not_not.mpr hb)
      simpa [endByte, crcMatches, hb, hc] using exec_feedWaitEndBadCrc hs hc
    · exact (congrArg (exec · s) (if_neg hb)).trans (exec_feedWaitEndBadEnd hs hb)

/-- The row FEED resolves to in WaitEnd, its two tests written out. -/
theorem parserRow_of_waitEnd {P : ParserState} (h : P.st = .waitEnd) (b : Byte) :
    parserRow P b = if b = 0x55 then (if crc16 P.buf.toList = P.rxCrc then .feedWaitEndAccept else .feedWaitEndBadCrc)
      else .feedWaitEndBadEnd b := by
  simp [parserRow, h, endByte, crcMatches]

/-- Settles O18: FEED returns a frame only as `feed_some` says, and is the row that `parserRow` selects. -/
theorem feedIsTotalAndRunsTheSelectedRow : Obligations.FeedIsTotalAndRunsTheSelectedRow := by
  intro s b
  have hrow : exec (.feed .between b) s = exec (parserRow s.P b) s := (exec_parserRow s b).symm
  refine ⟨⟨_, (feed s.P b).2, exec_feed b s, rfl, fun hne => ?_⟩, fun h => ?_, fun h => ?_, fun h => ?_, fun h => ?_,
    fun h => ?_⟩
  · obtain ⟨f, hf⟩ := Option.ne_none_iff_exists'.mp hne
    obtain ⟨hst, hb, hcrc, -, -⟩ := feed_some hf
    exact ⟨hst, hb, hcrc⟩
  · rw [hrow, parserRow, h]; rfl
  · rw [hrow, parserRow, h]
  · rw [hrow, parserRow, h]
  · rw [hrow, parserRow, h]
  · rw [hrow, parserRow_of_waitEnd h]

end Sys2Proof.Machine
end

section
/-! Proofs about completion (60_exceptions.md R88, log entry 9): with a well-formed `Cfg`, a row completes exactly where
its condition holds, and an operation always does. -/

namespace Sys2Proof.Machine

variable {s t : State} {i : Instr} {n : String} {k : Step}

theorem whenSelected_of_not_selected (h : selected i s = false) : whenSelected i n s k = .refused (.rowNotSelected n) :=
  if_neg (by rw [h]; exact Bool.false_ne_true)

theorem withCfg_of_wf (h : s.cfg.wf = true) : withCfg s k = k := if_pos h

theorem withCfg_of_not_wf (h : ¬ s.cfg.wf = true) : withCfg s k = .refused .illFormedCfg := if_neg h

/-- A row whose meaning is guarded by its own condition stops only where the condition fails. -/
theorem stops_only_unselected_of_row (h : exec i s = whenSelected i n s (.next t)) :
    (selected i s = true → ∃ t, exec i s = .next t) ∧
    (selected i s = false → ∃ name, exec i s = .refused (.rowNotSelected name)) :=
  ⟨fun hsel => ⟨t, h.trans (whenSelected_of_selected hsel)⟩,
   fun hsel => ⟨n, h.trans (whenSelected_of_not_selected hsel)⟩⟩

/-- An operation has no condition and completes. -/
theorem stops_only_unselected_of_operation (hsel : selected i s = true) (h : exec i s = .next t) :
    (selected i s = true → ∃ t, exec i s = .next t) ∧
    (selected i s = false → ∃ name, exec i s = .refused (.rowNotSelected name)) :=
  ⟨fun _ => ⟨t, h⟩, fun hfalse => absurd (hsel.symm.trans hfalse) (by decide)⟩

/-- Settles O20: the rows of the router take a `Cfg`, here a well-formed one, before their condition is tested. -/
theorem instructionsStopOnlyWhereTheirRowIsNotSelected :
    Obligations.InstructionsStopOnlyWhereTheirRowIsNotSelected := by
  intro i s hw hrange hmoment
  cases i with
  | feedWaitStartStart | feedWaitStartSkip | feedReadFrame | feedReadCrcLow | feedReadCrcHigh | feedWaitEndAccept
  | feedWaitEndBadEnd | feedWaitEndBadCrc | classCore | classServerCmd | classDeviceEvent | rxStepNotForMe =>
    exact stops_only_unselected_of_row rfl
  | corePing | coreReset | coreSetAddressValid | coreSetAddressInvalid | coreHello | coreAck | coreUnrecognized
  | routeForward => exact stops_only_unselected_of_row (withCfg_of_wf hw)
  | classAbsent | crc16 | unpack | classify | isForMe | reset => exact stops_only_unselected_of_operation rfl rfl
  | encodeFrame w => exact stops_only_unselected_of_operation rfl (exec_encodeFrame_of_inRange (hrange w rfl) s)
  | feed x b =>
    obtain rfl := hmoment x b (.inl rfl)
    exact stops_only_unselected_of_operation rfl (exec_feed b s)
  | route m f => exact stops_only_unselected_of_operation rfl (exec_route hw m f)
  | makeHello m => exact stops_only_unselected_of_operation rfl (withCfg_of_wf hw)
  | rxStep x b =>
    obtain rfl := hmoment x b (.inr rfl)
    exact stops_only_unselected_of_operation rfl (exec_rxStep hw b)

end Sys2Proof.Machine
end

section
/-! Proofs about the partition of the command bytes (43_classifier.md R69): the class of a byte by its top bits, and
CLASSIFY as the row those bits select. -/

namespace Sys2Proof.Machine

variable {s : State} {c : Byte}

/-- The classes as one test of the byte's value, from the ranges. -/
theorem classify_eq_ite (c : Byte) :
    classify c = if c.toNat = 0 then .absent else if c.toNat ≤ 0x3F then .core
      else if c.toNat ≤ 0x7F then .serverCmd else .deviceEvent := by
  split_ifs with hzero hcore hserver
  · exact classify_of_toNat_eq_zero hzero
  · exact classify_of_core_range (by omega) hcore
  · exact classify_of_serverCmd_range (by omega) hserver
  · exact classify_of_deviceEvent_range (by omega)

theorem classify_eq_absent_iff : classify c = .absent ↔ c.toNat = 0 := by
  rw [classify_eq_ite]; split_ifs <;> simp <;> omega

theorem classify_eq_core_iff : classify c = .core ↔ 1 ≤ c.toNat ∧ c.toNat ≤ 0x3F := by
  rw [classify_eq_ite]; split_ifs <;> simp <;> omega

theorem classify_eq_serverCmd_iff : classify c = .serverCmd ↔ 0x40 ≤ c.toNat ∧ c.toNat ≤ 0x7F := by
  rw [classify_eq_ite]; split_ifs <;> simp <;> omega

theorem classify_eq_deviceEvent_iff : classify c = .deviceEvent ↔ 0x80 ≤ c.toNat := by
  rw [classify_eq_ite]; split_ifs <;> simp <;> omega

theorem topBits_eq_iff (c : Byte) (t : BitVec 2) : c.extractLsb' 6 2 = t ↔ c.toNat / 64 = t.toNat := by
  have hdiv : (c.extractLsb' 6 2).toNat = c.toNat / 64 := by
    rw [BitVec.extractLsb'_toNat, Nat.shiftRight_eq_div_pow]; omega
  rw [BitVec.toNat_eq, hdiv]

theorem topBit_eq_true_iff (c : Byte) : c.getLsbD 7 = true ↔ 0x80 ≤ c.toNat := by
  have hmsb : c.getLsbD 7 = c.msb := rfl
  rw [hmsb, BitVec.msb_eq_decide, decide_eq_true_eq]

/-- 43_classifier.md R69, the bit form of the four classes. -/
theorem classify_eq_core_iff_topBits : classify c = .core ↔ c ≠ 0 ∧ c.extractLsb' 6 2 = 0 := by
  rw [classify_eq_core_iff, topBits_eq_iff]; bv_omega

theorem classify_eq_serverCmd_iff_topBits : classify c = .serverCmd ↔ c.extractLsb' 6 2 = 1 := by
  rw [classify_eq_serverCmd_iff, topBits_eq_iff]; bv_omega

theorem classify_eq_deviceEvent_iff_topBit : classify c = .deviceEvent ↔ c.getLsbD 7 = true := by
  rw [classify_eq_deviceEvent_iff, topBit_eq_true_iff]

theorem exec_classCore (h : classify c = .core) (s : State) :
    exec (.classCore c) s = .next (s.report (.cls .core) []) :=
  whenSelected_of_selected (by simp [selected, h])

theorem exec_classServerCmd (h : classify c = .serverCmd) (s : State) :
    exec (.classServerCmd c) s = .next (s.report (.cls .serverCmd) []) :=
  whenSelected_of_selected (by simp [selected, h])

theorem exec_classDeviceEvent (h : classify c = .deviceEvent) (s : State) :
    exec (.classDeviceEvent c) s = .next (s.report (.cls .deviceEvent) []) :=
  whenSelected_of_selected (by simp [selected, h])

/-- 30_encoding.md R43 point 2: the row the top bits select returns the byte's class. -/
theorem exec_classRow (c : Byte) (s : State) : exec (classRow c) s = .next (s.report (.cls (classify c)) []) := by
  unfold classRow
  split_ifs with habsent hcore hserver
  · rw [habsent]; rfl
  · have hclass := classify_eq_core_iff_topBits.mpr ⟨habsent, hcore⟩
    rw [hclass, exec_classCore hclass]
  · have hclass := classify_eq_serverCmd_iff_topBits.mpr hserver
    rw [hclass, exec_classServerCmd hclass]
  · have hclass : classify c = .deviceEvent := by
      rw [topBits_eq_iff] at hcore hserver
      exact classify_eq_deviceEvent_iff.mpr (by bv_omega)
    rw [hclass, exec_classDeviceEvent hclass]

/-- Settles O22: each class is a value of the top bits, and a class row's condition is its class. -/
theorem classRowsPartitionTheCommandBytes : Obligations.ClassRowsPartitionTheCommandBytes := by
  intro s c
  refine ⟨rfl, fun h0 htop => exec_classCore (classify_eq_core_iff_topBits.mpr ⟨h0, htop⟩) s,
    fun htop => exec_classServerCmd (classify_eq_serverCmd_iff_topBits.mpr htop) s,
    fun htop => exec_classDeviceEvent (classify_eq_deviceEvent_iff_topBit.mpr htop) s,
    fun hnot => whenSelected_of_not_selected ?_, fun hnot => whenSelected_of_not_selected ?_,
    fun hnot => whenSelected_of_not_selected ?_, (exec_classify c s).trans (exec_classRow c s).symm, fun h0 => ?_⟩
  · rw [selected, beq_eq_false_iff_ne, ne_eq, classify_eq_core_iff_topBits]
    tauto
  · rwa [selected, beq_eq_false_iff_ne, ne_eq, classify_eq_serverCmd_iff_topBits]
  · rw [selected, beq_eq_false_iff_ne, ne_eq, classify_eq_deviceEvent_iff_topBit, hnot]
    exact Bool.false_ne_true
  · refine ⟨classify c, ⟨?_, exec_classify c s⟩, ?_⟩
    · rw [ne_eq, classify_eq_absent_iff]
      bv_omega
    · rintro r ⟨-, hr⟩
      have htrace := congrArg State.trace (Host.Outcome.next.inj (hr.symm.trans (exec_classify c s)))
      simpa using htrace

end Sys2Proof.Machine
end

section
/-! Proofs about the router's rows (44_router.md R74 to R82): each row reports what ROUTE gives, and ROUTE is the one
row that `deviceCommand` selects. -/

namespace Sys2Proof.Machine

variable {s : State} {f : Frame}

/-- 44_router.md R81: a core command that is none of the five codes goes to the application. -/
theorem exec_coreUnrecognized (hw : s.cfg.wf = true) (hclass : classify f.deviceCommand = .core)
    (hcode : s.cfg.isCode f.deviceCommand = false) (m : Byte) :
    exec (.coreUnrecognized m f) s = .next (s.report .done [.appHandle f]) :=
  (withCfg_of_wf hw).trans (whenSelected_of_selected (by simp [selected, hclass, hcode]))

/-- 44_router.md R82: every other class goes to the application. -/
theorem exec_routeForward (hw : s.cfg.wf = true) (hclass : classify f.deviceCommand ≠ .core) (m : Byte) :
    exec (.routeForward m f) s = .next (s.report .done [.appHandle f]) :=
  (withCfg_of_wf hw).trans (whenSelected_of_selected (by simp [selected, hclass]))

theorem isCode_eq_false_iff (c : Cfg) (d : Byte) : c.isCode d = false ↔
    d ∉ [c.cmdHello, c.cmdAck, c.cmdPing, c.cmdReset, c.cmdSetAddress] := by
  simp only [Cfg.isCode, Bool.or_eq_false_iff, beq_eq_false_iff_ne, List.mem_cons, List.not_mem_nil, or_false, not_or]
  tauto

/-- Settles O28: the two ranges of `deviceCommand` are the two rows' conditions. -/
theorem otherFramesGoToTheApplicationUnchanged : Obligations.OtherFramesGoToTheApplicationUnchanged := by
  intro s m f hw
  refine ⟨fun h1 h2 hcode => ?_, fun hother => ?_⟩
  · exact exec_coreUnrecognized hw (classify_of_core_range h1 h2) ((isCode_eq_false_iff _ _).mpr hcode) m
  · have hclass : classify f.deviceCommand ≠ .core := by
      rw [ne_eq, classify_eq_core_iff]
      bv_omega
    exact exec_routeForward hw hclass m

/-- The router's rows for one frame. -/
def routerRows (m : Byte) (f : Frame) : List Instr :=
  [.corePing m f, .coreReset m f, .coreSetAddressValid m f, .coreSetAddressInvalid m f, .coreHello m f, .coreAck m f,
    .coreUnrecognized m f, .routeForward m f]

/-- The row ROUTE resolves to is a router row whose condition holds. -/
theorem routeRow_selected (s : State) (m : Byte) (f : Frame) :
    routeRow s.cfg m f ∈ routerRows m f ∧ selected (routeRow s.cfg m f) s = true := by
  unfold routeRow routerRows
  dsimp only
  split_ifs <;> simp_all [selected, Cfg.isCode]

/-- With a well-formed `Cfg` a router row completes where its condition holds. -/
theorem routerRow_completes {i : Instr} {m : Byte} (hw : s.cfg.wf = true) (hmem : i ∈ routerRows m f)
    (hsel : selected i s = true) : ∃ t, exec i s = .next t := by
  simp only [routerRows, List.mem_cons, List.not_mem_nil, or_false] at hmem
  rcases hmem with rfl | rfl | rfl | rfl | rfl | rfl | rfl | rfl <;>
    exact ⟨_, (withCfg_of_wf hw).trans (whenSelected_of_selected hsel)⟩

/-- The row ROUTE resolves to reports what ROUTE gives. -/
theorem exec_routeRow (hw : s.cfg.wf = true) (m : Byte) (f : Frame) :
    exec (routeRow s.cfg m f) s = .next (s.report .done (route s.cfg (s.ctx m) f)) := by
  obtain ⟨hmem, hsel⟩ := routeRow_selected s m f
  obtain ⟨t, ht⟩ := routerRow_completes hw hmem hsel
  obtain ⟨-, rfl⟩ := routerRow_next ht hmem
  exact ht

/-- Spec decision D12: the choice among the rows looks at `deviceCommand` and `parameters[0]` alone. -/
theorem rowNumber_routeRow_congr (cfg : Cfg) (m m' : Byte) {f g : Frame} (hd : g.deviceCommand = f.deviceCommand)
    (hp : g.parameters.get 0 = f.parameters.get 0) :
    rowNumber (routeRow cfg m' g) = rowNumber (routeRow cfg m f) := by
  unfold routeRow
  rw [hd, hp]
  dsimp only
  split_ifs <;> rfl

/-- Settles O29: ROUTE and the row it resolves to report the same (`exec_routeRow`). -/
theorem routeRunsTheRowDeviceCommandSelects : Obligations.RouteRunsTheRowDeviceCommandSelects := by
  intro s m f hw
  exact ⟨⟨_, exec_route hw m f⟩, (exec_route hw m f).trans (exec_routeRow hw m f).symm,
    fun m' _ _ _ _ hp => rowNumber_routeRow_congr s.cfg m m' rfl hp⟩

end Sys2Proof.Machine
end

section
/-! Proofs about RX_STEP (44_router.md R73, R85): what it reports and adopts, by what FEED returned. -/

namespace Sys2Proof.Machine

variable {s t : State} {f : Frame} {b : Byte}

/-- An RX_STEP that completes no frame only moves the parser. -/
theorem exec_rxStep_of_none (hw : s.cfg.wf = true) (h : (feed s.P b).2 = none) :
    exec (.rxStep .between b) s = .next ({ s with P := (feed s.P b).1 }.report .done []) := by
  rw [exec_rxStep hw, rxStep_of_none _ _ h]
  rfl

/-- An RX_STEP that completes a frame for this node reports ROUTE's events and adopts what they say. -/
theorem exec_rxStep_of_forMe (hw : s.cfg.wf = true) (h : (feed s.P b).2 = some f)
    (hme : f.address = s.myAddress ∨ f.address = 0xFE) :
    exec (.rxStep .between b) s = .next
      ({ s with P := (feed s.P b).1
                myAddress := adopt s.myAddress (route s.cfg (s.ctx s.myAddress) f) }.report .done
        (route s.cfg (s.ctx s.myAddress) f)) := by
  rw [exec_rxStep hw, rxStep_of_some _ _ h, receive_of_forMe hme]
  rfl

/-- Settles O31: `adopt_route` says which address ROUTE's events adopt. -/
theorem rxStepFeedsMatchesAndRoutes : Obligations.RxStepFeedsMatchesAndRoutes := by
  intro s b hw
  refine ⟨exec_rxStep_of_none hw, fun f hf hme => ⟨_, exec_route hw _ f, ?_⟩⟩
  have hadopt := adopt_route hw (s.ctx s.myAddress) f
  rw [State.ctx_myAddress] at hadopt
  rw [exec_rxStep_of_forMe hw hf hme, hadopt]

/-- What it takes for an RX_STEP to complete, and what it then leaves. -/
theorem rxStep_next {x : Moment} (h : exec (.rxStep x b) s = .next t) :
    x = .between ∧ s.cfg.wf = true ∧
      t = { s with P := (rxStep s.cfg s.P (s.ctx s.myAddress) b).1
                   myAddress := (rxStep s.cfg s.P (s.ctx s.myAddress) b).2.1 }.report .done
            (rxStep s.cfg s.P (s.ctx s.myAddress) b).2.2 := by
  obtain ⟨hx, h⟩ := atMoment_eq_next.mp h
  obtain ⟨hw, h⟩ := withCfg_eq_next.mp h
  exact ⟨hx, hw, received_eq_next.mp h⟩

/-- Settles O33: an RX_STEP reports nothing, or what ROUTE gives for the frame (`route_cases`). -/
theorem rxStepEmitsAtMostThreeEventsInOrder : Obligations.RxStepEmitsAtMostThreeEventsInOrder := by
  intro s t b h
  obtain ⟨-, hw, rfl⟩ := rxStep_next h
  refine ⟨_, rfl, ?_⟩
  simp only [State.report_myAddress]
  cases hf : (feed s.P b).2 with
  | none => exact .inl (by rw [rxStep_of_none _ _ hf])
  | some f =>
    rw [rxStep_of_some _ _ hf]
    by_cases hme : f.address = (s.ctx s.myAddress).myAddress ∨ f.address = 0xFE
    · rw [receive_of_forMe hme]
      rcases route_cases s.cfg (s.ctx s.myAddress) f with ⟨hr, -⟩ | ⟨hr, -⟩ | ⟨hr, -, -⟩ | ⟨hr, -⟩ | hr <;> rw [hr]
      · exact .inr (.inr (.inl ⟨f, rfl⟩))
      · exact .inr (.inr (.inr (.inl rfl)))
      · exact .inr (.inr (.inr (.inr ⟨f.parameters.get 0, rfl, rfl⟩)))
      · exact .inl rfl
      · exact .inr (.inl ⟨f, rfl⟩)
    · exact .inl (by rw [receive_of_notForMe hme])

end Sys2Proof.Machine
end

section
/-! Proofs about the configuration (00_scope.md R5, 60_exceptions.md R88 point 1): what a well-formed `Cfg` is, and who
refuses another one. -/

namespace Sys2Proof.Machine

variable {s : State}

theorem wf_iff (c : Cfg) : c.wf = true ↔
    [c.cmdHello, c.cmdAck, c.cmdPing, c.cmdReset, c.cmdSetAddress].Nodup ∧
      ∀ x ∈ [c.cmdHello, c.cmdAck, c.cmdPing, c.cmdReset, c.cmdSetAddress], 1 ≤ x.toNat ∧ x.toNat ≤ 0x3F := by
  have hrange : ∀ x : Byte, (decide (0x01 ≤ x) && decide (x ≤ 0x3F)) = true ↔ 1 ≤ x.toNat ∧ x.toNat ≤ 0x3F := by
    intro x
    rw [Bool.and_eq_true, decide_eq_true_eq, decide_eq_true_eq]
    rfl
  rw [Cfg.wf, Bool.and_eq_true, List.all_eq_true, decide_eq_true_eq, and_comm]
  simp only [hrange]

/-- 70_reset_and_hazards.md R100: boot applies RESET to a node with the given configuration. -/
theorem boot_of_wf {cfg : Cfg} (h : cfg.wf = true) (d : Byte) (hw : Bytes 6) (load : Option Byte) :
    ∃ t, boot cfg d hw load = .next t ∧ t.P.st = .waitStart ∧ t.myAddress = load.getD 0x00 ∧ t.cfg = cfg ∧
      t.deviceType = d ∧ t.hwId = hw :=
  ⟨_, withCfg_of_wf h, rfl, rfl, rfl, rfl, rfl⟩

/-- Settles O35: every one of them runs under `withCfg`. -/
theorem illFormedCfgIsRefusedAndBootFixesIt : Obligations.IllFormedCfgIsRefusedAndBootFixesIt := by
  intro cfg d hwId load
  dsimp only
  rw [← wf_iff]
  refine ⟨fun hw => boot_of_wf hw d hwId load, fun hnot => ⟨withCfg_of_not_wf hnot, ?_⟩⟩
  rintro s m b f rfl
  refine ⟨withCfg_of_not_wf hnot, withCfg_of_not_wf hnot, withCfg_of_not_wf hnot, fun i hi => ?_⟩
  simp only [List.mem_cons, List.not_mem_nil, or_false] at hi
  rcases hi with rfl | rfl | rfl | rfl | rfl | rfl | rfl | rfl <;> exact withCfg_of_not_wf hnot

end Sys2Proof.Machine
end

section
/-! Proofs about the invariant of a run (10_state.md R11, 44_router.md R84): a FEED keeps the parser in order, ROUTE
gives legal events only, and so every step keeps the invariant. -/

namespace Sys2Proof.Machine

variable {s t : State} {P : ParserState}

theorem ParserState.inv_of_waitStart (h : P.st = .waitStart) : P.Inv := by simp [ParserState.Inv, h]

theorem ParserState.inv_iff_of_readFrame (h : P.st = .readFrame) : P.Inv ↔ P.rxCrc = 0x0000 := by
  simp [ParserState.Inv, h]

theorem ParserState.inv_iff_of_readCrcLow (h : P.st = .readCrcLow) : P.Inv ↔ P.idx.val = 24 ∧ P.rxCrc = 0x0000 := by
  simp [ParserState.Inv, h]

theorem ParserState.inv_iff_of_readCrcHigh (h : P.st = .readCrcHigh) :
    P.Inv ↔ P.idx.val = 24 ∧ crcHigh P.rxCrc = 0x00 := by
  simp [ParserState.Inv, h]

theorem ParserState.inv_iff_of_waitEnd (h : P.st = .waitEnd) : P.Inv ↔ P.idx.val = 24 := by
  simp [ParserState.Inv, h]

/-- 42_parser.md R58: the byte that does not complete the body leaves ReadFrame, the one that does ReadCrcLow. -/
theorem feedReadFrame_keeps_inv (h : P.st = .readFrame) (hP : P.Inv) (b : Byte) : (feedReadFrame P b).1.Inv := by
  obtain ⟨-, -, hidx, hcrc, hst⟩ := feedReadFrame_spec h b
  rw [ParserState.inv_iff_of_readFrame h] at hP
  split_ifs at hst with h24
  · exact (ParserState.inv_iff_of_readCrcLow hst).mpr ⟨hidx.trans h24, hcrc.trans hP⟩
  · exact (ParserState.inv_iff_of_readFrame hst).mpr (hcrc.trans hP)

/-- 42_parser.md R59: the first CRC byte leaves bits 15:8 at zero. -/
theorem crcHigh_setWidth (b : Byte) : crcHigh (b.setWidth 16) = 0x00 := by
  unfold crcHigh
  ext i hi
  simp

/-- 10_state.md R11: every FEED keeps the parser in order. -/
theorem feed_keeps_inv (hP : P.Inv) (b : Byte) : (feed P b).1.Inv := by
  rcases feed_cases P b with ⟨-, -, hf⟩ | ⟨-, -, hf⟩ | ⟨hs, hf⟩ | ⟨hs, hf⟩ | ⟨hs, hf⟩ | ⟨-, -, -, hf⟩ | ⟨-, -, hf⟩ <;>
    rw [hf]
  · exact (ParserState.inv_iff_of_readFrame (beginFrame_st P)).mpr (beginFrame_rxCrc P)
  · exact hP
  · exact feedReadFrame_keeps_inv hs hP b
  · obtain ⟨hidx, -⟩ := (ParserState.inv_iff_of_readCrcLow hs).mp hP
    exact (ParserState.inv_iff_of_readCrcHigh rfl).mpr ⟨hidx, crcHigh_setWidth b⟩
  · obtain ⟨hidx, -⟩ := (ParserState.inv_iff_of_readCrcHigh hs).mp hP
    exact (ParserState.inv_iff_of_waitEnd rfl).mpr hidx
  · exact ParserState.inv_of_waitStart (toWaitStart_st P)
  · exact ParserState.inv_of_waitStart (toWaitStart_st P)

/-- 44_router.md R77, R78, R84: whatever the frame, ROUTE gives legal events. -/
theorem route_legal (cfg : Cfg) (ctx : Ctx) (f : Frame) : ∀ e ∈ route cfg ctx f, e.Legal := by
  rcases route_cases cfg ctx f with ⟨h, -⟩ | ⟨h, -⟩ | ⟨h, -, ha⟩ | ⟨h, -⟩ | h <;> rw [h]
  · simp [Event.Legal]
  · simp [Event.Legal]
  · have haddr := (rejectedAddress_eq_false _).mp ha
    simp only [routeSetAddress, List.forall_mem_cons, List.not_mem_nil, false_imp_iff, implies_true, and_true]
    exact ⟨haddr, haddr, _, rfl⟩
  · simp
  · simp [Event.Legal]

theorem rxStep_legal (cfg : Cfg) (P : ParserState) (ctx : Ctx) (b : Byte) :
    ∀ e ∈ (rxStep cfg P ctx b).2.2, e.Legal := by
  cases hf : (feed P b).2 with
  | none => rw [rxStep_of_none _ _ hf]; simp
  | some f =>
    rw [rxStep_of_some _ _ hf]
    by_cases hme : f.address = ctx.myAddress ∨ f.address = 0xFE
    · rw [receive_of_forMe hme]; exact route_legal cfg ctx f
    · rw [receive_of_notForMe hme]; simp

/-- A parser in order and one more output of legal events keep the invariant. -/
theorem State.Inv.extend {o : Output} (h : s.Inv) (hcfg : t.cfg = s.cfg) (hP : t.P.Inv)
    (htrace : t.trace = s.trace ++ [o]) (ho : ∀ e ∈ o.events, e.Legal) : t.Inv where
  cfg := hcfg ▸ h.cfg
  parser := hP
  events := by
    rw [State.EventsLegal, htrace]
    intro o' ho'
    rcases List.mem_append.mp ho' with hold | hnew
    · exact h.events o' hold
    · obtain rfl := List.mem_singleton.mp hnew
      exact ho

theorem exec_keeps_inv {i : Instr} (hs : s.Inv) (h : exec i s = .next t) : t.Inv := by
  rcases exec_cases h with ⟨r, rfl⟩ | ⟨m, f, -, rfl⟩ | ⟨b, rfl⟩ | ⟨b, -, -, hr⟩ | ⟨load, -, rfl⟩
  · exact hs.extend rfl hs.parser rfl (by simp)
  · exact hs.extend rfl hs.parser rfl (route_legal _ _ _)
  · exact hs.extend rfl (feed_keeps_inv hs.parser b) rfl (by simp)
  · obtain rfl := received_eq_next.mp hr
    have hP : (rxStep s.cfg s.P (s.ctx s.myAddress) b).1.Inv := by rw [rxStep_P]; exact feed_keeps_inv hs.parser b
    exact hs.extend rfl hP rfl (rxStep_legal _ _ _ _)
  · exact hs.extend rfl (ParserState.inv_of_waitStart rfl) rfl (by simp)

/-- Settles O37: the invariant does not look at the pending calls, and every instruction keeps it (`exec_keeps_inv`). -/
theorem everyStepKeepsTheInvariant : Obligations.EveryStepKeepsTheInvariant := by
  intro s t hs h
  rcases step_cases h with ⟨-, rfl⟩ | ⟨r, rest, i, -, -, hexec⟩
  · exact hs
  · have hs' : ({ s with calls := rest } : State).Inv := ⟨hs.cfg, hs.parser, hs.events⟩
    exact exec_keeps_inv hs' hexec

end Sys2Proof.Machine
end

section
/-! Proofs of the frame rules: who writes the node address (10_state.md R12), the configuration (20_memory.md R29) and
the body buffer (20_memory.md R21), and what the pure operations depend on (20_memory.md R25). -/

namespace Sys2Proof.Machine

variable {s t : State} {i : Instr}

/-- An RX_STEP that changes the address completed an accepted SET_ADDRESS for this node. -/
theorem rxStep_changes_address {b : Byte} (hw : s.cfg.wf = true)
    (hne : (rxStep s.cfg s.P (s.ctx s.myAddress) b).2.1 ≠ s.myAddress) :
    ∃ f, (feed s.P b).2 = some f ∧ (f.address = s.myAddress ∨ f.address = 0xFE) ∧
      f.deviceCommand = s.cfg.cmdSetAddress ∧
      (rxStep s.cfg s.P (s.ctx s.myAddress) b).2.1 = f.parameters.get 0 ∧
      f.parameters.get 0 ≠ 0x00 ∧ f.parameters.get 0 ≠ 0xFF := by
  cases hf : (feed s.P b).2 with
  | none => rw [rxStep_of_none _ _ hf] at hne; exact absurd rfl hne
  | some f =>
    rw [rxStep_of_some _ _ hf] at hne ⊢
    by_cases hme : f.address = (s.ctx s.myAddress).myAddress ∨ f.address = 0xFE
    · rw [receive_of_forMe hme, adopt_route hw] at hne ⊢
      dsimp only at hne ⊢
      split_ifs at hne ⊢ with hset
      · exact ⟨f, rfl, hme, hset.1, rfl, hset.2⟩
      · exact absurd rfl hne
    · rw [receive_of_notForMe hme] at hne
      exact absurd rfl hne

/-- Settles O38: of everything an instruction can do (`exec_cases`), two things touch the address. -/
theorem onlyResetAndAcceptedSetAddressWriteMyAddress :
    Obligations.OnlyResetAndAcceptedSetAddressWriteMyAddress := by
  intro i s t h hne
  rcases exec_cases h with ⟨r, rfl⟩ | ⟨m, f, -, rfl⟩ | ⟨b, rfl⟩ | ⟨b, rfl, hw, hr⟩ | ⟨load, rfl, rfl⟩
  · exact absurd rfl hne
  · exact absurd rfl hne
  · exact absurd rfl hne
  · obtain rfl := received_eq_next.mp hr
    obtain ⟨f, hf, hme, hset, haddr, h0, hFF⟩ := rxStep_changes_address hw hne
    exact .inr ⟨b, f, rfl, hf, hme, hset, haddr, haddr.trans_ne h0, haddr.trans_ne hFF⟩
  · exact .inl ⟨load, rfl, rfl⟩

/-- What no instruction changes, and the one entry each adds to the trace. -/
theorem exec_frame (h : exec i s = .next t) :
    t.cfg = s.cfg ∧ t.deviceType = s.deviceType ∧ t.hwId = s.hwId ∧ t.calls = s.calls ∧
      ∃ o, t.trace = s.trace ++ [o] := by
  rcases exec_cases h with ⟨r, rfl⟩ | ⟨m, f, -, rfl⟩ | ⟨b, rfl⟩ | ⟨b, -, -, hr⟩ | ⟨load, -, rfl⟩
  case inr.inr.inr.inl => obtain rfl := received_eq_next.mp hr; exact ⟨rfl, rfl, rfl, rfl, _, rfl⟩
  all_goals exact ⟨rfl, rfl, rfl, rfl, _, rfl⟩

/-- Settles O39: a step with a call pending is one instruction on the state without that call. -/
theorem everyStepKeepsTheConfigurationAndReportsOnce : Obligations.EveryStepKeepsTheConfigurationAndReportsOnce := by
  intro s t h
  rcases step_cases h with ⟨hnil, rfl⟩ | ⟨r, rest, i, hcalls, -, hexec⟩
  · exact ⟨rfl, rfl, rfl, .inl ⟨hnil, rfl⟩⟩
  · obtain ⟨hcfg, htype, hid, hrest, o, htrace⟩ := exec_frame hexec
    exact ⟨hcfg, htype, hid, .inr ⟨r, o, hcalls.trans (by rw [hrest]), htrace⟩⟩

theorem State.ctx_congr {s' : State} (hd : s'.deviceType = s.deviceType) (hh : s'.hwId = s.hwId) (m : Byte) :
    s'.ctx m = s.ctx m := by
  rw [State.ctx, hd, hh, State.ctx]

/-- The condition of a router row reads nothing of the state but the `Cfg`. -/
theorem selected_congr_of_routerRow {s' : State} {m : Byte} {f : Frame} (hmem : i ∈ routerRows m f)
    (hc : s'.cfg = s.cfg) : selected i s' = selected i s := by
  simp only [routerRows, List.mem_cons, List.not_mem_nil, or_false] at hmem
  rcases hmem with rfl | rfl | rfl | rfl | rfl | rfl | rfl | rfl <;> simp only [selected, hc]

/-- Settles O40: a pure operation is guarded by its condition and the `Cfg`, and reports what it computes from its
operands, the `Cfg` and the node's identity. -/
theorem pureOperationsOnlyReport : Obligations.PureOperationsOnlyReport := by
  intro i s t h hi
  cases i with
  | feedWaitStartStart | feedWaitStartSkip | feedReadFrame | feedReadCrcLow | feedReadCrcHigh | feedWaitEndAccept
  | feedWaitEndBadEnd | feedWaitEndBadCrc | rxStepNotForMe | feed | rxStep | reset => cases hi
  | classAbsent | crc16 | unpack | classify | isForMe => exact ⟨_, _, complete_eq_next.mp h, fun _ _ _ _ => rfl⟩
  | classCore | classServerCmd | classDeviceEvent =>
    obtain ⟨hs, hk⟩ := whenSelected_eq_next.mp h
    exact ⟨_, _, complete_eq_next.mp hk, fun _ _ _ _ => whenSelected_of_selected hs⟩
  | corePing m f | coreReset m f | coreSetAddressInvalid m f | coreHello m f | coreAck m f | coreUnrecognized m f
  | routeForward m f =>
    obtain ⟨hw, hk⟩ := withCfg_eq_next.mp h
    obtain ⟨hs, hk⟩ := whenSelected_eq_next.mp hk
    exact ⟨_, _, complete_eq_next.mp hk, fun _ hc _ _ => (withCfg_of_wf (hc ▸ hw)).trans
      (whenSelected_of_selected ((selected_congr_of_routerRow (m := m) (f := f) (by simp [routerRows]) hc).trans hs))⟩
  | coreSetAddressValid m f =>
    obtain ⟨hw, hk⟩ := withCfg_eq_next.mp h
    obtain ⟨hs, hk⟩ := whenSelected_eq_next.mp hk
    refine ⟨_, _, complete_eq_next.mp hk, fun s' hc hd hh => ?_⟩
    rw [← hc, ← State.ctx_congr hd hh]
    exact (withCfg_of_wf (hc ▸ hw)).trans
      (whenSelected_of_selected ((selected_congr_of_routerRow (m := m) (f := f) (by simp [routerRows]) hc).trans hs))
  | encodeFrame w =>
    by_cases hr : w.inRange = true
    · rw [exec_encodeFrame_of_inRange hr] at h
      exact ⟨_, _, (Host.Outcome.next.inj h).symm, fun _ _ _ _ => exec_encodeFrame_of_inRange hr _⟩
    · rw [exec_encodeFrame_of_not_inRange hr] at h; cases h
  | route m f =>
    obtain ⟨hw, hk⟩ := withCfg_eq_next.mp h
    refine ⟨_, _, complete_eq_next.mp hk, fun s' hc hd hh => ?_⟩
    rw [← hc, ← State.ctx_congr hd hh]
    exact exec_route (hc ▸ hw) m f
  | makeHello m =>
    obtain ⟨hw, hk⟩ := withCfg_eq_next.mp h
    refine ⟨_, _, complete_eq_next.mp hk, fun s' hc hd hh => ?_⟩
    rw [← hc, ← State.ctx_congr hd hh]
    exact withCfg_of_wf (hc ▸ hw)

/-- 20_memory.md R21: a FEED that changes the buffer is in ReadFrame, and stores its byte at the index. -/
theorem feed_changes_buf {P : ParserState} {b : Byte} (hne : (feed P b).1.buf ≠ P.buf) :
    P.st = .readFrame ∧ (feed P b).1.buf = P.buf.set P.idx.val b := by
  rcases feed_cases P b with ⟨-, -, hf⟩ | ⟨-, -, hf⟩ | ⟨hs, hf⟩ | ⟨-, hf⟩ | ⟨-, hf⟩ | ⟨-, -, -, hf⟩ | ⟨-, -, hf⟩ <;>
    rw [hf] at hne ⊢
  case inr.inr.inl => exact ⟨hs, (feedReadFrame_spec hs b).2.1⟩
  all_goals exact absurd rfl hne

/-- In ReadFrame, nothing but the row, FEED, RX_STEP and RESET changes the parser. -/
theorem exec_changes_parser_in_readFrame (h : exec i s = .next t) (hst : s.P.st = .readFrame) (hne : t.P ≠ s.P) :
    (∃ load, i = .reset load) ∨ ∃ b, i = .feedReadFrame b ∨ i = .feed .between b ∨ i = .rxStep .between b := by
  by_cases hpure : pureRow i = true
  · obtain ⟨r, evs, rfl, -⟩ := pureOperationsOnlyReport i s t h hpure
    exact absurd rfl hne
  cases i with
  | feedWaitStartStart | feedWaitStartSkip | feedReadCrcLow | feedReadCrcHigh | feedWaitEndAccept | feedWaitEndBadEnd
  | feedWaitEndBadCrc =>
    have hsel := (whenSelected_eq_next.mp h).1
    simp [selected, hst] at hsel
  | feedReadFrame b => exact .inr ⟨b, .inl rfl⟩
  | feed x b =>
    obtain ⟨rfl, -⟩ := atMoment_eq_next.mp h
    exact .inr ⟨b, .inr (.inl rfl)⟩
  | rxStep x b =>
    obtain ⟨rfl, -⟩ := atMoment_eq_next.mp h
    exact .inr ⟨b, .inr (.inr rfl)⟩
  | reset load => exact .inl ⟨load, rfl⟩
  | rxStepNotForMe a =>
    obtain rfl := complete_eq_next.mp (whenSelected_eq_next.mp h).2
    exact absurd rfl hne
  | _ => exact absurd rfl hpure

/-- Settles O41: whatever changes the buffer is a RESET or a FEED transition (`exec_cases`), made in ReadFrame. -/
theorem onlyReadFrameWritesTheBuffer : Obligations.OnlyReadFrameWritesTheBuffer := by
  intro i s t h hne
  have hparser : t.P ≠ s.P := fun hP => hne (congrArg ParserState.buf hP)
  have hfed : ∀ b, t.P = (feed s.P b).1 → (∃ load, i = .reset load) ∨
      (s.P.st = .readFrame ∧ (∃ b, t.P.buf = s.P.buf.set s.P.idx.val b) ∧
        ∃ b, i = .feedReadFrame b ∨ i = .feed .between b ∨ i = .rxStep .between b) := by
    intro b hP
    obtain ⟨hst, hbuf⟩ := feed_changes_buf (hP ▸ hne)
    exact (exec_changes_parser_in_readFrame h hst hparser).imp_right fun hi => ⟨hst, ⟨b, hP ▸ hbuf⟩, hi⟩
  rcases exec_cases h with ⟨r, rfl⟩ | ⟨m, f, -, rfl⟩ | ⟨b, rfl⟩ | ⟨b, -, -, hr⟩ | ⟨load, rfl, -⟩
  · exact absurd rfl hne
  · exact absurd rfl hne
  · exact hfed b rfl
  · obtain rfl := received_eq_next.mp hr
    exact hfed b (rxStep_P _ _ _ _)
  · exact .inl ⟨load, rfl⟩

end Sys2Proof.Machine
end

section
/-! Proofs about a step (60_exceptions.md R87, R90): what it does with no call pending, with a record that encodes no
call, and on fed bytes. -/

namespace Sys2Proof.Machine

variable {s : State}

theorem step_of_no_call (h : s.calls = []) : step s = .next s := by
  rw [step, takeCall_nil h]

theorem step_of_rejected {r : List Byte} {rest : List (List Byte)} {e : DecodeError} (hc : s.calls = r :: rest)
    (hd : decode r = .error e) : step s = .refused (.undecodable e) := by
  simp only [step, takeCall_cons hc, hd]

/-- Settles O42: there is no fault value, and a FEED completes on every byte (`run_feedCalls`). -/
theorem malformedWireDataNeverStopsTheEngine : Obligations.MalformedWireDataNeverStopsTheEngine := by
  refine ⟨fun _ r => (nomatch r), fun s bytes hc => ?_⟩
  have hrun := run_feedCalls bytes s [] (by rw [hc, List.append_nil])
  exact ⟨_, hrun, (feedAll s.P bytes).2, feedAll_length _ _, rfl⟩

end Sys2Proof.Machine
end

section
/-! Proofs about several blocks side by side (10_state.md R17): what a step of one of them can do to the list. -/

namespace Sys2Proof.Machine

theorem stepInstance_eq_next {k : Nat} {blocks a : List State} : stepInstance k blocks = .next a ↔
    (blocks[k]? = none ∧ a = blocks) ∨ ∃ s t, blocks[k]? = some s ∧ step s = .next t ∧ a = blocks.set k t := by
  unfold stepInstance
  cases hk : blocks[k]? with
  | none => simp [eq_comm]
  | some s => cases hs : step s <;> simp [hs, eq_comm]

theorem stepInstance_other {j k : Nat} {blocks a : List State} (hne : j ≠ k) (h : stepInstance j blocks = .next a) :
    a[k]? = blocks[k]? := by
  rcases stepInstance_eq_next.mp h with ⟨-, rfl⟩ | ⟨s, t, -, -, rfl⟩
  · rfl
  · exact List.getElem?_set_ne hne

/-- Settles O43: each of the two steps finds its block as the other one found it, and they write different places. -/
theorem instancesShareNoState : Obligations.InstancesShareNoState := by
  intro blocks after j k hne
  refine ⟨stepInstance_other hne, fun a b ab hj hk hk' => stepInstance_eq_next.mpr ?_⟩
  have haj : a[k]? = blocks[k]? := stepInstance_other hne hj
  have hbk : b[j]? = blocks[j]? := stepInstance_other (Ne.symm hne) hk'
  rcases stepInstance_eq_next.mp hj with ⟨hnone, rfl⟩ | ⟨s, t, hs, hstep, rfl⟩
  · rw [hk] at hk'
    obtain rfl := Host.Outcome.next.inj hk'
    exact .inl ⟨hbk.trans hnone, rfl⟩
  · refine .inr ⟨s, t, hbk.trans hs, hstep, ?_⟩
    rcases stepInstance_eq_next.mp hk with ⟨hnone, rfl⟩ | ⟨u, v, hu, hstep', rfl⟩
    · rcases stepInstance_eq_next.mp hk' with ⟨-, rfl⟩ | ⟨u, v, hu, -, -⟩
      · rfl
      · rw [← haj, hnone] at hu; cases hu
    · have hb := (stepInstance_eq_next (a := blocks.set k v)).mpr (.inr ⟨u, v, haj ▸ hu, hstep', rfl⟩)
      obtain rfl := Host.Outcome.next.inj (hk'.symm.trans hb)
      exact List.set_comm t v hne

end Sys2Proof.Machine
end

section
/-! Proofs that the dead parser fields are unobservable (10_state.md R11, spec decision D5): two states whose parsers
agree on what their state keeps alive take the same steps. -/

namespace Sys2Proof.Machine

variable {P Q : ParserState} {s : State} {k k' : Step}

/-- The parsers agree on every field the parser state keeps alive: none in WaitStart, the stored bytes in ReadFrame, all
of them after the body. -/
def ParserState.Agree (P Q : ParserState) : Prop :=
  P = Q ∨ (P.st = .waitStart ∧ Q.st = .waitStart) ∨
    (P.st = .readFrame ∧ Q.st = .readFrame ∧ P.idx = Q.idx ∧ P.rxCrc = Q.rxCrc ∧
      P.buf.toList.take P.idx.val = Q.buf.toList.take P.idx.val)

theorem ParserState.Agree.st_eq (h : P.Agree Q) : P.st = Q.st := by
  rcases h with rfl | ⟨hP, hQ⟩ | ⟨hP, hQ, -⟩
  · rfl
  · rw [hP, hQ]
  · rw [hP, hQ]

/-- In WaitEnd every field is alive. -/
theorem ParserState.Agree.eq_of_waitEnd (h : P.Agree Q) (hP : P.st = .waitEnd) : P = Q := by
  rcases h with rfl | ⟨hP', -⟩ | ⟨hP', -⟩
  · rfl
  · rw [hP] at hP'; cases hP'
  · rw [hP] at hP'; cases hP'

/-- Storing one more value after the first `n` of them. -/
theorem take_succ_set {α : Type} {l : List α} {n : Nat} (hn : n < l.length) (b : α) :
    (l.set n b).take (n + 1) = l.take n ++ [b] := by
  rw [List.take_succ_eq_append_getElem (by simpa using hn), List.take_set_of_le (Nat.le_refl n), List.getElem_set_self]

theorem feedReadFrame_agree (hP : P.st = .readFrame) (hidx : P.idx = Q.idx) (hcrc : P.rxCrc = Q.rxCrc)
    (hbuf : P.buf.toList.take P.idx.val = Q.buf.toList.take P.idx.val) (b : Byte) :
    (feedReadFrame P b).1.Agree (feedReadFrame Q b).1 := by
  have hlt := idx_lt_of_readFrame hP
  have htake : (P.buf.toList.set P.idx.val b).take (P.idx.val + 1) =
      (Q.buf.toList.set P.idx.val b).take (P.idx.val + 1) := by
    rw [take_succ_set (by simpa using hlt), take_succ_set (by simpa using hlt), hbuf]
  unfold feedReadFrame
  simp only [← hidx, ← hcrc]
  split_ifs
  · exact .inr (.inr ⟨rfl, rfl, rfl, rfl, htake⟩)
  · have hall : P.buf.set P.idx.val b = Q.buf.set P.idx.val b := by
      have h24 : P.idx.val + 1 = 24 := by omega
      rw [h24] at htake
      ext1
      simpa [List.take_of_length_le] using htake
    rw [hall]
    exact .inl rfl

/-- Agreeing parsers give the same answer to a byte, and go on agreeing. -/
theorem feed_agree (h : P.Agree Q) (b : Byte) : (feed P b).2 = (feed Q b).2 ∧ (feed P b).1.Agree (feed Q b).1 := by
  rcases h with rfl | ⟨hP, hQ⟩ | ⟨hP, hQ, hidx, hcrc, hbuf⟩
  · exact ⟨rfl, .inl rfl⟩
  · rw [feed_of_waitStart hP, feed_of_waitStart hQ]
    unfold feedWaitStart
    split_ifs
    · exact ⟨rfl, .inr (.inr ⟨rfl, rfl, rfl, rfl, rfl⟩)⟩
    · exact ⟨rfl, .inr (.inl ⟨hP, hQ⟩)⟩
  · rw [feed_of_readFrame hP, feed_of_readFrame hQ, (feedReadFrame_spec hP b).1, (feedReadFrame_spec hQ b).1]
    exact ⟨rfl, feedReadFrame_agree hP hidx hcrc hbuf b⟩

/-- Two outcomes that a caller cannot tell apart. -/
inductive StepAgree : Step → Step → Prop
  | next {t : State} {Q : ParserState} (h : t.P.Agree Q) : StepAgree (.next t) (.next { t with P := Q })
  | refused (r : Refusal) : StepAgree (.refused r) (.refused r)

theorem complete_agree (h : s.P.Agree Q) (r : Result) (evs : List Event) :
    StepAgree (s.complete r evs) (({ s with P := Q } : State).complete r evs) :=
  .next (t := s.report r evs) h

theorem fed_agree (h : s.P.Agree Q) (b : Byte) :
    StepAgree (s.fed (feed s.P b)) (({ s with P := Q } : State).fed (feed Q b)) := by
  obtain ⟨hret, hagree⟩ := feed_agree h b
  rw [State.fed, State.fed, ← hret]
  exact .next (t := { s with P := (feed s.P b).1 }.report (.fed (feed s.P b).2) []) hagree

theorem withCfg_agree (h : StepAgree k k') : StepAgree (withCfg s k) (withCfg { s with P := Q } k') := by
  by_cases hw : s.cfg.wf = true
  · rwa [withCfg_of_wf hw, withCfg_of_wf (s := { s with P := Q }) hw]
  · rw [withCfg_of_not_wf hw, withCfg_of_not_wf (s := { s with P := Q }) hw]
    exact .refused _

theorem whenSelected_agree {i : Instr} {n : String} (h : StepAgree k k')
    (hsel : selected i { s with P := Q } = selected i s) :
    StepAgree (whenSelected i n s k) (whenSelected i n { s with P := Q } k') := by
  cases hs : selected i s with
  | true => rwa [whenSelected_of_selected hs, whenSelected_of_selected (hsel.trans hs)]
  | false =>
    rw [whenSelected_of_not_selected hs, whenSelected_of_not_selected (hsel.trans hs)]
    exact .refused _

theorem atMoment_agree (h : StepAgree k k') (x : Moment) : StepAgree (atMoment x k) (atMoment x k') := by
  cases x with
  | between => exact h
  | concurrent | insideCallback | duringTx => exact .refused _

theorem rxStep_agree (h : s.P.Agree Q) (b : Byte) :
    StepAgree (s.received (rxStep s.cfg s.P (s.ctx s.myAddress) b))
      (({ s with P := Q } : State).received (rxStep s.cfg Q (s.ctx s.myAddress) b)) := by
  obtain ⟨hret, hagree⟩ := feed_agree h b
  have hrx : (rxStep s.cfg Q (s.ctx s.myAddress) b).2 = (rxStep s.cfg s.P (s.ctx s.myAddress) b).2 := by
    cases hf : (feed s.P b).2 with
    | none => rw [rxStep_of_none _ _ hf, rxStep_of_none _ _ (hret ▸ hf)]
    | some f => rw [rxStep_of_some _ _ hf, rxStep_of_some _ _ (hret ▸ hf)]
  rw [State.received, State.received, hrx, rxStep_P, rxStep_P]
  exact .next (t := { s with P := (feed s.P b).1, myAddress := _ }.report .done _) hagree

/-- A FEED row whose condition holds is the row FEED resolves to for its own byte. -/
theorem parserRow_of_selected {i : Instr} (hi : feedRow i = true) (hsel : selected i s = true) :
    parserRow s.P (recordParts i).1 = i := by
  cases i with
  | feedWaitStartStart | feedWaitStartSkip | feedReadFrame | feedReadCrcLow | feedReadCrcHigh | feedWaitEndAccept
  | feedWaitEndBadEnd | feedWaitEndBadCrc => simp_all [selected, parserRow, recordParts]
  | _ => cases hi

/-- A FEED row is FEED of its own byte, under its condition. -/
theorem exec_feedRow {i : Instr} (hi : feedRow i = true) :
    ∃ n, ∀ s, exec i s = whenSelected i n s (s.fed (feed s.P (recordParts i).1)) := by
  have hguard : ∃ n, ∃ k : State → Step, ∀ s, exec i s = whenSelected i n s (k s) := by
    cases i with
    | feedWaitStartStart | feedWaitStartSkip | feedReadFrame | feedReadCrcLow | feedReadCrcHigh | feedWaitEndAccept
    | feedWaitEndBadEnd | feedWaitEndBadCrc => exact ⟨_, _, fun _ => rfl⟩
    | _ => cases hi
  obtain ⟨n, k, hk⟩ := hguard
  refine ⟨n, fun s => ?_⟩
  cases hsel : selected i s with
  | true => rw [whenSelected_of_selected hsel, ← exec_parserRow, parserRow_of_selected hi hsel]
  | false => rw [hk, whenSelected_of_not_selected hsel, whenSelected_of_not_selected hsel]

/-- The condition of a FEED row reads only what is alive. -/
theorem selected_agree {i : Instr} (h : s.P.Agree Q) (hi : feedRow i = true) :
    selected i { s with P := Q } = selected i s := by
  by_cases hend : s.P.st = .waitEnd
  · rw [← h.eq_of_waitEnd hend]
  · have hend' : (Q.st == .waitEnd) = false := by rw [← h.st_eq]; simpa using hend
    cases i with
    | feedWaitStartStart | feedWaitStartSkip | feedReadFrame | feedReadCrcLow | feedReadCrcHigh | feedWaitEndBadEnd =>
      simp only [selected, h.st_eq]
    | feedWaitEndAccept | feedWaitEndBadCrc => simp only [selected, h.st_eq, hend', Bool.false_and]
    | _ => cases hi

/-- Every instruction takes agreeing states to outcomes that a caller cannot tell apart. -/
theorem exec_agree (h : s.P.Agree Q) (i : Instr) : StepAgree (exec i s) (exec i { s with P := Q }) := by
  by_cases hi : feedRow i = true
  · obtain ⟨n, hn⟩ := exec_feedRow hi
    rw [hn, hn]
    exact whenSelected_agree (fed_agree h _) (selected_agree h hi)
  cases i with
  | classAbsent | crc16 | unpack | classify | isForMe => exact complete_agree h _ _
  | classCore | classServerCmd | classDeviceEvent | rxStepNotForMe =>
    exact whenSelected_agree (complete_agree h _ _) rfl
  | corePing | coreReset | coreSetAddressValid | coreSetAddressInvalid | coreHello | coreAck | coreUnrecognized
  | routeForward => exact withCfg_agree (whenSelected_agree (complete_agree h _ _) rfl)
  | route | makeHello => exact withCfg_agree (complete_agree h _ _)
  | encodeFrame w =>
    by_cases hr : w.inRange = true
    · rw [exec_encodeFrame_of_inRange hr, exec_encodeFrame_of_inRange hr]
      exact complete_agree h _ _
    · rw [exec_encodeFrame_of_not_inRange hr, exec_encodeFrame_of_not_inRange hr]
      exact .refused _
  | feed x b => exact atMoment_agree (fed_agree h b) x
  | rxStep x b => exact atMoment_agree (withCfg_agree (rxStep_agree h b)) x
  | reset load => exact .next (t := (s.hostReset load).report .done []) (.inl rfl)
  | _ => exact absurd rfl hi

theorem step_agree (h : s.P.Agree Q) : StepAgree (step s) (step { s with P := Q }) := by
  by_cases hnil : s.calls = []
  · rw [step_of_no_call hnil, step_of_no_call (s := { s with P := Q }) hnil]
    exact .next h
  obtain ⟨r, rest, hcons⟩ := List.exists_cons_of_ne_nil hnil
  cases hd : decode r with
  | error e =>
    rw [step_of_rejected hcons hd, step_of_rejected (s := { s with P := Q }) hcons hd]
    exact .refused _
  | ok i =>
    rw [step_of_call hcons hd, step_of_call (s := { s with P := Q }) hcons hd]
    exact exec_agree (s := { s with calls := rest }) h i

theorem run_agree (n : Nat) (h : s.P.Agree Q) :
    StepAgree (Sys2Proof.core.run n s) (Sys2Proof.core.run n { s with P := Q }) := by
  induction n generalizing s Q with
  | zero => exact .next h
  | succ n ih =>
    have hstep := step_agree h
    generalize hx : step s = x at hstep
    generalize hy : step { s with P := Q } = y at hstep
    cases hstep with
    | next hagree => rw [run_succ_of_next hx, run_succ_of_next hy]; exact ih hagree
    | refused r => rw [run_succ_of_refused hx, run_succ_of_refused hy]; exact .refused r

/-- Settles O44: in WaitStart all parsers agree, and agreeing states run alike (`run_agree`). -/
theorem deadParserFieldsAreUnobservable : Obligations.DeadParserFieldsAreUnobservable := by
  intro n s Q hP hQ
  have hrun := run_agree n (s := s) (.inr (.inl ⟨hP, hQ⟩))
  generalize Sys2Proof.core.run n s = x at hrun
  generalize Sys2Proof.core.run n { s with P := Q } = y at hrun
  cases hrun with
  | @next t Q' hagree =>
    refine ⟨fun s' hs' => ?_, fun _ hr => nomatch hr⟩
    obtain rfl := Host.Outcome.next.inj hs'
    exact ⟨_, rfl, rfl, rfl, hagree.st_eq.symm, rfl⟩
  | refused r =>
    exact ⟨fun _ hs' => (nomatch hs'), fun _ hr => hr⟩

end Sys2Proof.Machine
end

section
/-! Proofs about a frame attempt (42_parser.md R67): what the parser holds after each part of a frame, how many bytes
the attempt still takes, and what its 28 bytes return. -/

namespace Sys2Proof.Machine

variable {P : ParserState}

/-! ### The bytes received so far -/

/-- Fewer than 24 body bytes: they stand at the front of the buffer. -/
theorem feedAll_partial_body (h : P.st = .waitStart) {body : List Byte} (hl : body.length < 24) :
    (feedAll P (0xAA :: body)).1.st = .readFrame ∧ (feedAll P (0xAA :: body)).1.idx.val = body.length ∧
    (feedAll P (0xAA :: body)).1.rxCrc = 0x0000 ∧
    (feedAll P (0xAA :: body)).2 = List.replicate (body.length + 1) none ∧
    (feedAll P (0xAA :: body)).1.buf.toList = body ++ P.buf.toList.drop body.length := by
  have hstart : feed P 0xAA = (beginFrame P, none) := by rw [feed_of_waitStart h]; rfl
  have hidx : (beginFrame P).idx.val = 0 := rfl
  obtain ⟨h1, h2, h3, h4, h5⟩ := feedAll_readFrame body (beginFrame P) (beginFrame_st P) (by rw [hidx]; omega)
  rw [feedAll_cons, hstart]
  rw [hidx, Nat.zero_add] at h2
  rw [hidx, Nat.zero_add, List.take_zero, List.nil_append] at h5
  exact ⟨h1, h2, h3, by rw [h4, List.replicate_succ], h5⟩

/-- A list whose last value is stored over another that agrees with it so far. -/
theorem set_eq_of_take_eq {α : Type} {l l' : List α} {n : Nat} (hl : l.length = n + 1) (hl' : l'.length = n + 1)
    (h : l.take n = l'.take n) : l.set n l'[n] = l' := by
  have hset := take_succ_set (l := l) (n := n) (by omega) l'[n]
  rwa [List.take_of_length_le (by simp [hl]), h, take_append_getElem_of_length_eq hl'] at hset

/-- The whole body: it is the buffer. -/
theorem feedAll_body (h : P.st = .waitStart) (body : Bytes 24) :
    (feedAll P (0xAA :: body.toList)).1.st = .readCrcLow ∧ (feedAll P (0xAA :: body.toList)).1.idx.val = 24 ∧
    (feedAll P (0xAA :: body.toList)).1.rxCrc = 0x0000 ∧
    (feedAll P (0xAA :: body.toList)).2 = List.replicate 25 none ∧
    (feedAll P (0xAA :: body.toList)).1.buf = body := by
  have hbody : 0xAA :: body.toList = (0xAA :: body.toList.take 23) ++ [body.get 23] := by
    rw [List.cons_append, Arr.get, take_append_getElem_of_length_eq body.size]
  have hlen : (body.toList.take 23).length = 23 := by simp
  obtain ⟨hst, hidx, hcrc, hout, hbuf⟩ := feedAll_partial_body h (body := body.toList.take 23) (by omega)
  obtain ⟨kout, kbuf, kidx, kcrc, kst⟩ := feedReadFrame_spec hst (body.get 23)
  rw [hlen] at hidx
  rw [hbody, feedAll_append, feedAll_cons, feedAll_nil, feed_of_readFrame hst]
  refine ⟨by rw [kst, if_pos (by omega)], by rw [kidx, hidx], kcrc.trans hcrc, ?_, ?_⟩
  · rw [hout, kout, hlen]; rfl
  · rw [kbuf, hidx]
    ext1
    refine set_eq_of_take_eq (by simp) (by simp) ?_
    rw [hbuf, List.take_append_of_le_length (by omega), List.take_take]
    rfl

/-- The first CRC byte. -/
theorem feedAll_body_low (h : P.st = .waitStart) (body : Bytes 24) (lo : Byte) :
    (feedAll P (0xAA :: body.toList ++ [lo])).1.st = .readCrcHigh ∧
    (feedAll P (0xAA :: body.toList ++ [lo])).1.idx.val = 24 ∧
    (feedAll P (0xAA :: body.toList ++ [lo])).1.rxCrc = lo.setWidth 16 ∧
    (feedAll P (0xAA :: body.toList ++ [lo])).2 = List.replicate 26 none ∧
    (feedAll P (0xAA :: body.toList ++ [lo])).1.buf = body := by
  obtain ⟨hst, hidx, -, hout, hbuf⟩ := feedAll_body h body
  rw [feedAll_append, feedAll_cons, feedAll_nil, feed_of_readCrcLow hst]
  exact ⟨rfl, hidx, rfl, by rw [hout]; rfl, hbuf⟩

/-- Both CRC bytes, low byte first. -/
theorem feedAll_body_low_high (h : P.st = .waitStart) (body : Bytes 24) (lo hi : Byte) :
    (feedAll P (0xAA :: body.toList ++ [lo, hi])).1.st = .waitEnd ∧
    (feedAll P (0xAA :: body.toList ++ [lo, hi])).1.idx.val = 24 ∧
    (feedAll P (0xAA :: body.toList ++ [lo, hi])).1.rxCrc = joinCrc lo hi ∧
    (feedAll P (0xAA :: body.toList ++ [lo, hi])).2 = List.replicate 27 none ∧
    (feedAll P (0xAA :: body.toList ++ [lo, hi])).1.buf = body := by
  have hsplit : 0xAA :: body.toList ++ [lo, hi] = (0xAA :: body.toList ++ [lo]) ++ [hi] := by simp
  obtain ⟨hst, hidx, hcrc, hout, hbuf⟩ := feedAll_body_low h body lo
  rw [hsplit, feedAll_append, feedAll_cons, feedAll_nil, feed_of_readCrcHigh hst]
  exact ⟨rfl, hidx, by rw [feedReadCrcHigh, hcrc]; rfl, by rw [hout]; rfl, hbuf⟩

/-- Settles O45: each part of a frame is one more application of the row of its parser state. -/
theorem parserHoldsTheBytesReceivedSoFar : Obligations.ParserHoldsTheBytesReceivedSoFar := by
  intro P body lo hi h
  refine ⟨fun hl => ?_, fun hl => ?_, fun hl => ?_, fun hl => ?_⟩
  · obtain ⟨hst, hidx, hcrc, -, hbuf⟩ := feedAll_partial_body h hl
    exact ⟨hst, hidx, by rw [hbuf]; simp, hcrc⟩
  · obtain ⟨hst, hidx, hcrc, -, hbuf⟩ := feedAll_body h ⟨body, hl⟩
    exact ⟨hst, hidx, congrArg Arr.toList hbuf, hcrc⟩
  · obtain ⟨hst, hidx, hcrc, -, hbuf⟩ := feedAll_body_low h ⟨body, hl⟩ lo
    exact ⟨hst, hidx, congrArg Arr.toList hbuf, hcrc⟩
  · obtain ⟨hst, hidx, hcrc, -, hbuf⟩ := feedAll_body_low_high h ⟨body, hl⟩ lo hi
    exact ⟨hst, hidx, congrArg Arr.toList hbuf, hcrc⟩

/-! ### The bytes still to come -/

/-- How many bytes the current frame attempt still takes; none in WaitStart. -/
def bytesLeft (P : ParserState) : Nat :=
  match P.st with
  | .waitStart => 0
  | .readFrame => 27 - P.idx.val
  | .readCrcLow => 3
  | .readCrcHigh => 2
  | .waitEnd => 1

theorem bytesLeft_of_waitStart (h : P.st = .waitStart) : bytesLeft P = 0 := by rw [bytesLeft, h]
theorem bytesLeft_of_readFrame (h : P.st = .readFrame) : bytesLeft P = 27 - P.idx.val := by rw [bytesLeft, h]
theorem bytesLeft_of_readCrcLow (h : P.st = .readCrcLow) : bytesLeft P = 3 := by rw [bytesLeft, h]
theorem bytesLeft_of_readCrcHigh (h : P.st = .readCrcHigh) : bytesLeft P = 2 := by rw [bytesLeft, h]
theorem bytesLeft_of_waitEnd (h : P.st = .waitEnd) : bytesLeft P = 1 := by rw [bytesLeft, h]

theorem waitStart_iff_bytesLeft : P.st = .waitStart ↔ bytesLeft P = 0 := by
  refine ⟨bytesLeft_of_waitStart, fun h => ?_⟩
  cases hst : P.st with
  | waitStart => rfl
  | readFrame =>
    have hidx := idx_lt_of_readFrame hst
    rw [bytesLeft_of_readFrame hst] at h
    omega
  | readCrcLow => rw [bytesLeft_of_readCrcLow hst] at h; cases h
  | readCrcHigh => rw [bytesLeft_of_readCrcHigh hst] at h; cases h
  | waitEnd => rw [bytesLeft_of_waitEnd hst] at h; cases h

theorem bytesLeft_feedReadFrame (h : P.st = .readFrame) (b : Byte) :
    bytesLeft (feedReadFrame P b).1 = bytesLeft P - 1 := by
  obtain ⟨-, -, hidx, -, hst⟩ := feedReadFrame_spec h b
  rw [bytesLeft_of_readFrame h]
  split_ifs at hst with h24
  · rw [bytesLeft_of_readCrcLow hst]; omega
  · rw [bytesLeft_of_readFrame hst, hidx]; omega

/-- Every byte of an attempt counts, whatever its value, and only the last one can return a frame. -/
theorem feed_in_frame (h : P.st ≠ .waitStart) (b : Byte) :
    bytesLeft (feed P b).1 = bytesLeft P - 1 ∧ (bytesLeft P ≠ 1 → (feed P b).2 = none) := by
  rcases feed_cases P b with ⟨hs, -⟩ | ⟨hs, -⟩ | ⟨hs, hf⟩ | ⟨hs, hf⟩ | ⟨hs, hf⟩ | ⟨hs, -, -, hf⟩ | ⟨hs, -, hf⟩
  · exact absurd hs h
  · exact absurd hs h
  · rw [hf]; exact ⟨bytesLeft_feedReadFrame hs b, fun _ => (feedReadFrame_spec hs b).1⟩
  · rw [hf, bytesLeft_of_readCrcLow hs]; exact ⟨rfl, fun _ => rfl⟩
  · rw [hf, bytesLeft_of_readCrcHigh hs]; exact ⟨rfl, fun _ => rfl⟩
  · rw [hf, bytesLeft_of_waitEnd hs]; exact ⟨rfl, fun hne => absurd rfl hne⟩
  · rw [hf, bytesLeft_of_waitEnd hs]; exact ⟨rfl, fun _ => rfl⟩

theorem bytesLeft_feedAll {l : List Byte} (h : l.length ≤ bytesLeft P) :
    bytesLeft (feedAll P l).1 = bytesLeft P - l.length := by
  induction l generalizing P with
  | nil => rfl
  | cons b l ih =>
    rw [List.length_cons] at h ⊢
    have hst : P.st ≠ .waitStart := fun hs => by rw [bytesLeft_of_waitStart hs] at h; omega
    obtain ⟨hleft, -⟩ := feed_in_frame hst b
    rw [feedAll_cons, ih (by omega), hleft]
    omega

/-- An attempt that is not over returns nothing. -/
theorem feedAll_before_end {l : List Byte} (h : l.length < bytesLeft P) :
    (feedAll P l).2 = List.replicate l.length none := by
  induction l generalizing P with
  | nil => rfl
  | cons b l ih =>
    rw [List.length_cons] at h
    have hst : P.st ≠ .waitStart := fun hs => by rw [bytesLeft_of_waitStart hs] at h; omega
    obtain ⟨hleft, hnone⟩ := feed_in_frame hst b
    rw [feedAll_cons, ih (by omega), hnone (by omega), List.length_cons, List.replicate_succ]

/-- From WaitStart fewer than 28 bytes return nothing. -/
theorem feedAll_short {l : List Byte} (h : P.st = .waitStart) (hl : l.length < 28) :
    (feedAll P l).2 = List.replicate l.length none := by
  induction l generalizing P with
  | nil => rfl
  | cons b l ih =>
    rw [List.length_cons] at hl
    rw [feedAll_cons, feed_of_waitStart h, List.length_cons, List.replicate_succ]
    unfold feedWaitStart
    split_ifs
    · have hleft : bytesLeft (beginFrame P) = 27 := rfl
      rw [feedAll_before_end (by rw [hleft]; omega)]
    · rw [ih h (by omega)]

/-- Settles O46: the start byte leaves 27 bytes to come, and each of them counts (`bytesLeft_feedAll`). -/
theorem aFrameAttemptTakesExactlyTwentySevenMoreBytes :
    Obligations.AFrameAttemptTakesExactlyTwentySevenMoreBytes := by
  intro s bytes rest h hc hl
  refine ⟨_, run_feedCalls (0xAA :: bytes) s rest hc, rfl, ?_⟩
  have hstart : feed s.P 0xAA = (beginFrame s.P, none) := by rw [feed_of_waitStart h]; rfl
  have hleft : bytesLeft (beginFrame s.P) = 27 := rfl
  rw [waitStart_iff_bytesLeft, feedAll_cons, hstart, bytesLeft_feedAll (by rw [hleft]; exact hl), hleft]
  omega

end Sys2Proof.Machine
end

section
/-! Proofs about 28 bytes as a frame (30_encoding.md R30, R41): their parts, the validity check on them, and what the
parser makes of them. -/

namespace Sys2Proof.Machine

variable {P : ParserState} {s : State}

/-! ### The parts of 28 bytes -/

theorem toList_eq_parts (w : Bytes 28) :
    w.toList = w.get 0 :: (w.slice 1 24).toList ++ [w.get 25, w.get 26, w.get 27] := by
  have hlen := w.size
  have htail : w.toList.drop 25 = [w.get 25, w.get 26, w.get 27] := by
    rw [List.drop_eq_getElem_cons (by omega), List.drop_eq_getElem_cons (by omega),
      List.drop_eq_getElem_cons (by omega), List.drop_of_length_le (by omega)]
    rfl
  have hrest : w.toList.drop 1 = (w.slice 1 24).toList ++ [w.get 25, w.get 26, w.get 27] := by
    rw [← htail, Arr.toList_slice]
    exact (List.take_append_drop 24 (w.toList.drop 1)).symm.trans (by rw [List.drop_drop])
  rw [List.cons_append, ← hrest]
  exact List.drop_eq_getElem_cons (i := 0) (by omega)

section wireOf
variable (body : Bytes 24) (lo hi : Byte)

@[simp] theorem get_wireOf_start : (wireOf body lo hi).get 0 = 0xAA := rfl

@[simp] theorem get_wireOf_low : (wireOf body lo hi).get 25 = lo := by simp [Arr.get]

@[simp] theorem get_wireOf_high : (wireOf body lo hi).get 26 = hi := by simp [Arr.get]

@[simp] theorem get_wireOf_end : (wireOf body lo hi).get 27 = 0x55 := by simp [Arr.get]

theorem get_wireOf_body {k : Nat} (hk : k < 24) : (wireOf body lo hi).get (k + 1) (by omega) = body.get k hk := by
  simp [Arr.get, hk]

theorem wireOf_set_body {k : Nat} (hk : k < 24) (x : Byte) :
    (wireOf body lo hi).set (k + 1) x = wireOf (body.set k x) lo hi := by
  ext1
  simp [hk]

theorem wireOf_exchange : ((wireOf body lo hi).set 25 hi).set 26 lo = wireOf body hi lo := by
  ext1
  simp

end wireOf

theorem get_encodeFrame_low (f : Frame) :
    (encodeFrame f).get 25 = crcLow (crc16 (bodyOf (clearReserved f)).toList) := get_wireOf_low _ _ _

theorem get_encodeFrame_high (f : Frame) :
    (encodeFrame f).get 26 = crcHigh (crc16 (bodyOf (clearReserved f)).toList) := get_wireOf_high _ _ _

/-! ### The validity check -/

theorem validFrame_iff (w : Bytes 28) : validFrame w = true ↔
    w.get 0 = 0xAA ∧ joinCrc (w.get 25) (w.get 26) = crc16 (w.slice 1 24).toList ∧ w.get 27 = 0x55 := by
  simp only [validFrame, Bool.and_eq_true, beq_iff_eq, and_assoc]

theorem validFrame_wireOf_iff (body : Bytes 24) (lo hi : Byte) :
    validFrame (wireOf body lo hi) = true ↔ joinCrc lo hi = crc16 body.toList := by
  simp [validFrame_iff]

theorem validFrame_encodeFrame (f : Frame) : validFrame (encodeFrame f) = true :=
  (validFrame_wireOf_iff _ _ _).mpr (joinCrc_low_high _)

theorem crcHigh_joinCrc (lo hi : Byte) : crcHigh (joinCrc lo hi) = hi := by
  have h0 := crcHigh_setWidth lo
  rw [crcHigh] at h0
  rw [crcHigh, joinCrc, extractLsb'_high_or_shiftLeft, h0]
  simp

/-- 90_conflicts.md C6: the other byte order gives the same CRC only where the bytes are alike. -/
theorem joinCrc_high_low_iff (c : U16) : joinCrc (crcHigh c) (crcLow c) = c ↔ crcLow c = crcHigh c := by
  constructor
  · intro h
    calc crcLow c = crcHigh (joinCrc (crcHigh c) (crcLow c)) := (crcHigh_joinCrc _ _).symm
      _ = crcHigh c := by rw [h]
  · intro h
    calc joinCrc (crcHigh c) (crcLow c) = joinCrc (crcLow c) (crcHigh c) := by rw [h]
      _ = c := joinCrc_low_high c

/-! ### What the parser makes of them -/

theorem feed_endByte (h : P.st = .waitEnd) (hc : crc16 P.buf.toList = P.rxCrc) :
    feed P 0x55 = (toWaitStart P, some (unpack P.buf)) := by
  rw [feed_of_waitEnd h]
  exact if_pos ⟨rfl, beq_iff_eq.mpr hc⟩

/-- After the start byte, the 28th byte ends the attempt and returns the frame where the 28 bytes are valid. -/
theorem feedAll_wire (h : P.st = .waitStart) {w : Bytes 28} (h0 : w.get 0 = 0xAA) :
    (feedAll P w.toList).1.st = .waitStart ∧ (feedAll P w.toList).2 =
      List.replicate 27 none ++ [if validFrame w = true then some (unpack (w.slice 1 24)) else none] := by
  obtain ⟨hst, -, hcrc, hout, hbuf⟩ := feedAll_body_low_high h (w.slice 1 24) (w.get 25) (w.get 26)
  have hsplit : w.toList = (0xAA :: (w.slice 1 24).toList ++ [w.get 25, w.get 26]) ++ [w.get 27] := by
    rw [toList_eq_parts, h0]; simp
  rw [hsplit, feedAll_append, feedAll_cons, feedAll_nil, hout]
  generalize (feedAll P (0xAA :: (w.slice 1 24).toList ++ [w.get 25, w.get 26])).1 = Q at hst hcrc hbuf
  rcases feed_cases Q (w.get 27) with h' | h' | h' | h' | h' | ⟨-, he, hc, hf⟩ | ⟨-, hbad, hf⟩
  case inr.inr.inr.inr.inr.inl =>
    have hvalid : validFrame w = true := (validFrame_iff w).mpr ⟨h0, by rw [← hcrc, ← hc, hbuf], he⟩
    rw [hf, if_pos hvalid, hbuf]
    exact ⟨rfl, rfl⟩
  case inr.inr.inr.inr.inr.inr =>
    have hinvalid : ¬ validFrame w = true := by
      rw [validFrame_iff, ← hcrc, ← hbuf]
      rintro ⟨-, hc, he⟩
      exact hbad.elim (fun hne => hne he) (fun hne => hne hc.symm)
    rw [hf, if_neg hinvalid]
    exact ⟨rfl, rfl⟩
  all_goals
    have hst' := h'.1
    rw [hst] at hst'
    cases hst'

/-- Whatever the first byte, only the 28th can return a frame. -/
theorem feedAll_28_bytes (h : P.st = .waitStart) (w : Bytes 28) :
    (feedAll P w.toList).2 =
      List.replicate 27 none ++ [if validFrame w = true then some (unpack (w.slice 1 24)) else none] := by
  by_cases h0 : w.get 0 = 0xAA
  · exact (feedAll_wire h h0).2
  · have hskip : feed P (w.get 0) = (P, none) := by rw [feed_of_waitStart h]; exact if_neg h0
    have hinvalid : ¬ validFrame w = true := fun hv => h0 ((validFrame_iff w).mp hv).1
    have hlen : ((w.slice 1 24).toList ++ [w.get 25, w.get 26, w.get 27]).length = 27 := by simp
    rw [toList_eq_parts, List.cons_append, feedAll_cons, hskip, if_neg hinvalid, feedAll_short h (by omega), hlen]
    rfl

/-- 28 bytes that start with 0xAA and are not valid return nothing. -/
theorem feedAll_invalid (h : P.st = .waitStart) {w : Bytes 28} (h0 : w.get 0 = 0xAA) (hv : ¬ validFrame w = true) :
    (feedAll P w.toList).1.st = .waitStart ∧ (feedAll P w.toList).2 = List.replicate 28 none := by
  obtain ⟨hst, hout⟩ := feedAll_wire h h0
  rw [if_neg hv] at hout
  exact ⟨hst, hout⟩

/-- 41_codec.md R53 point 1: an encoded frame is returned at its last byte, with `reserved` cleared. -/
theorem feedAll_encodeFrame (h : P.st = .waitStart) (f : Frame) :
    (feedAll P (encodeFrame f).toList).1.st = .waitStart ∧
    (feedAll P (encodeFrame f).toList).2 = List.replicate 27 none ++ [some (clearReserved f)] := by
  obtain ⟨hst, hout⟩ := feedAll_wire h (w := encodeFrame f) rfl
  rw [if_pos (validFrame_encodeFrame f), unpack_slice_encodeFrame] at hout
  exact ⟨hst, hout⟩

/-- 42_parser.md R57: in WaitStart, bytes other than 0xAA leave the parser as it is. -/
theorem feedAll_garbage (h : P.st = .waitStart) {l : List Byte} (hl : ∀ b ∈ l, b ≠ 0xAA) :
    feedAll P l = (P, List.replicate l.length none) := by
  induction l with
  | nil => rfl
  | cons b l ih =>
    obtain ⟨hb, hl⟩ := List.forall_mem_cons.mp hl
    have hskip : feed P b = (P, none) := by rw [feed_of_waitStart h]; exact if_neg hb
    rw [feedAll_cons, hskip, ih hl]
    rfl

/-- 42_parser.md R67 points 2 and 7: a sequence of encoded frames with garbage before each of them. -/
theorem feedAll_segments (h : P.st = .waitStart) {segs : List (List Byte × Frame)}
    (hg : ∀ g ∈ segs, ∀ b ∈ g.1, b ≠ 0xAA) :
    (feedAll P (segs.flatMap fun g => g.1 ++ (encodeFrame g.2).toList)).1.st = .waitStart ∧
    (feedAll P (segs.flatMap fun g => g.1 ++ (encodeFrame g.2).toList)).2 =
      segs.flatMap fun g => List.replicate (g.1.length + 27) none ++ [some (clearReserved g.2)] := by
  induction segs generalizing P with
  | nil => exact ⟨h, rfl⟩
  | cons g segs ih =>
    obtain ⟨hg, hsegs⟩ := List.forall_mem_cons.mp hg
    obtain ⟨hst, hout⟩ := feedAll_encodeFrame h g.2
    obtain ⟨hst', hout'⟩ := ih hst hsegs
    rw [List.flatMap_cons, List.append_assoc, feedAll_append, feedAll_garbage h hg, feedAll_append]
    refine ⟨hst', ?_⟩
    rw [hout', hout, List.flatMap_cons, ← List.replicate_append_replicate]
    simp only [List.append_assoc]

/-! ### Runs over 28-byte frames -/

/-- A run over exactly the pending FEED calls. -/
theorem run_all_feedCalls {bytes : List Byte} {n : Nat} (hn : bytes.length = n) (hc : s.calls = feedCalls bytes) :
    ∃ t, Sys2Proof.core.run n s = .next t ∧ t.P = (feedAll s.P bytes).1 ∧
      t.trace = s.trace ++ (feedAll s.P bytes).2.map fedOutput := by
  subst hn
  exact ⟨_, run_feedCalls bytes s [] (by rw [hc, List.append_nil]), rfl, rfl⟩

/-- Settles O47: the 28th byte returns the frame exactly where `validFrame` holds. -/
theorem bytesAreReceivedExactlyWhenValid : Obligations.BytesAreReceivedExactlyWhenValid := by
  intro s w h hc
  obtain ⟨t, hrun, -, htrace⟩ := run_all_feedCalls w.size hc
  have hcond := validFrame_iff w
  rw [joinCrc] at hcond
  refine ⟨t, hrun, ?_⟩
  rw [htrace, feedAll_28_bytes h, List.map_append, ← List.append_assoc]
  simp only [hcond, List.map_cons, List.map_nil, List.getLast?_concat]

/-- Settles O48: the run reports what `feedAll_segments` says the bytes return. -/
theorem encodedFramesAreReceivedInOrder : Obligations.EncodedFramesAreReceivedInOrder := by
  intro s segs rest h hg hc
  obtain ⟨hst, hout⟩ := feedAll_segments h hg
  refine ⟨_, run_feedCalls _ s rest hc, hst, rfl, rfl, ?_⟩
  dsimp only
  rw [hout, List.map_flatMap]
  simp [clearReserved]

/-- Settles O49: the 28 invalid bytes end in WaitStart, where the next frame is received. -/
theorem corruptionOfEqualLengthCostsOnlyItsOwnFrame : Obligations.CorruptionOfEqualLengthCostsOnlyItsOwnFrame := by
  intro s w g h h0 hv hc
  obtain ⟨t, hrun, hP, htrace⟩ := run_all_feedCalls (n := 56) (by simp) hc
  obtain ⟨hst, hout⟩ := feedAll_invalid h h0 (by simp [hv])
  obtain ⟨hst', hout'⟩ := feedAll_encodeFrame hst g
  rw [feedAll_append] at hP htrace
  refine ⟨t, hrun, hP ▸ hst', ?_⟩
  rw [htrace, hout, hout', ← List.append_assoc, ← List.replicate_append_replicate (n := 28) (m := 27)]
  simp [clearReserved]

/-- The 27 bytes of a short frame and the next start byte fail as a frame, and the rest of that frame is skipped. -/
theorem feedAll_truncated (h : P.st = .waitStart) {short tail : List Byte} (hlen : short.length = 26)
    (htail : ∀ b ∈ tail, b ≠ 0xAA) :
    (feedAll P (0xAA :: short ++ 0xAA :: tail)).1.st = .waitStart ∧
    (feedAll P (0xAA :: short ++ 0xAA :: tail)).2 = List.replicate (28 + tail.length) none := by
  have hw : (0xAA :: short ++ [0xAA] : List Byte).length = 28 := by simp [hlen]
  have hsplit : 0xAA :: short ++ 0xAA :: tail = (0xAA :: short ++ [0xAA]) ++ tail := by simp
  have hinvalid : ¬ validFrame ⟨_, hw⟩ = true := by
    rw [validFrame_iff]
    rintro ⟨-, -, hend⟩
    simp [Arr.get, hlen] at hend
  obtain ⟨hst, hout⟩ := feedAll_invalid h (w := ⟨_, hw⟩) rfl hinvalid
  dsimp only at hst hout
  rw [hsplit, feedAll_append, feedAll_garbage hst htail, hout, List.replicate_append_replicate]
  exact ⟨hst, rfl⟩

/-- Settles O50: the next frame's start byte is the 28th byte of the attempt (`feedAll_truncated`). -/
theorem aTruncatedFrameCostsTheNextFrame : Obligations.ATruncatedFrameCostsTheNextFrame := by
  intro s short g h hlen htail hc
  have hg : (encodeFrame g).toList = 0xAA :: (encodeFrame g).toList.tail := rfl
  have htl : (encodeFrame g).toList.tail.length = 27 := by simp
  obtain ⟨t, hrun, hP, htrace⟩ := run_all_feedCalls (n := 55) (by simp [hlen]) hc
  obtain ⟨hst, hout⟩ := feedAll_truncated h hlen htail
  rw [hg] at hP htrace
  refine ⟨t, hrun, hP ▸ hst, ?_⟩
  rw [htrace, hout, htl, List.map_replicate]

/-- A wire frame around any body and CRC bytes, received: it is returned exactly where the CRC is the body's. -/
theorem run_wireOf (h : s.P.st = .waitStart) {body : Bytes 24} {lo hi : Byte}
    (hc : s.calls = feedCalls (wireOf body lo hi).toList) :
    ∃ t, Sys2Proof.core.run 28 s = .next t ∧ t.P.st = .waitStart ∧ t.trace = s.trace ++
      List.replicate 27 (fedOutput none) ++
        [fedOutput (if joinCrc lo hi = crc16 body.toList then some (unpack body) else none)] := by
  obtain ⟨t, hrun, hP, htrace⟩ := run_all_feedCalls (wireOf body lo hi).size hc
  obtain ⟨hst, hout⟩ := feedAll_wire h (w := wireOf body lo hi) rfl
  refine ⟨t, hrun, hP ▸ hst, ?_⟩
  rw [htrace, hout, slice_wireOf, List.map_append, List.map_replicate, List.append_assoc]
  simp only [validFrame_wireOf_iff, List.map_cons, List.map_nil]

/-- Settles O51: the flipped body is sent with the CRC of the body it was, which is another one (O8). -/
theorem everySingleBitFlipOfABodyIsRejected : Obligations.EverySingleBitFlipOfABodyIsRejected := by
  intro s f k j hk h hj hc
  rw [encodeFrame, get_wireOf_body _ _ _ hk, wireOf_set_body _ _ _ hk] at hc
  obtain ⟨t, hrun, hst, htrace⟩ := run_wireOf h hc
  refine ⟨t, hrun, hst, ?_⟩
  have hcrc := crc16DetectsEverySingleBitFlip (bodyOf (clearReserved f)) k j hk hj
  rw [joinCrc_low_high, if_neg (Ne.symm hcrc), List.append_assoc] at htrace
  exact htrace

/-- Settles O52: the exchanged bytes join to the frame's CRC exactly where they are alike (`joinCrc_high_low_iff`). -/
theorem exchangedCrcBytesAreDroppedExactlyWhenTheyDiffer :
    Obligations.ExchangedCrcBytesAreDroppedExactlyWhenTheyDiffer := by
  intro s f h hc
  rw [get_encodeFrame_low, get_encodeFrame_high, encodeFrame, wireOf_exchange] at hc
  obtain ⟨t, hrun, hst, htrace⟩ := run_wireOf h hc
  refine ⟨t, hrun, hst, ?_⟩
  simp only [joinCrc_high_low_iff, unpack_bodyOf] at htrace
  simp only [get_encodeFrame_low, get_encodeFrame_high]
  exact htrace

end Sys2Proof.Machine
end

section
/-! Proofs about a node that receives a frame (44_router.md R73): one RX_STEP per byte, the frame acted on at the
last. -/

namespace Sys2Proof.Machine

variable {s t : State}

theorem run_add_of_next {m n : Nat} (h : Sys2Proof.core.run m s = .next t) :
    Sys2Proof.core.run (m + n) s = Sys2Proof.core.run n t := by
  induction m generalizing s with
  | zero =>
    obtain rfl := Host.Outcome.next.inj h
    rw [Nat.zero_add]
  | succ m ih =>
    rw [Nat.add_right_comm]
    cases hs : step s with
    | next u =>
      rw [run_succ_of_next hs] at h ⊢
      exact ih h
    | fault r => cases r
    | refused r => rw [run_succ_of_refused hs] at h; cases h

/-- Bytes that complete no frame are received without an event. -/
theorem run_rxCalls_of_none {bytes : List Byte} {rest : List (List Byte)} (hw : s.cfg.wf = true)
    (hc : s.calls = rxCalls bytes ++ rest) (hnone : (feedAll s.P bytes).2 = List.replicate bytes.length none) :
    Sys2Proof.core.run bytes.length s = .next
      { s with P := (feedAll s.P bytes).1, calls := rest,
               trace := s.trace ++ List.replicate bytes.length (rxOutput []) } := by
  induction bytes generalizing s with
  | nil =>
    obtain rfl : s.calls = rest := by simpa [rxCalls] using hc
    simp [Host.Core.run]
  | cons b l ih =>
    have hc' : s.calls = encode (.rxStep .between b) :: (rxCalls l ++ rest) := by simpa [rxCalls] using hc
    rw [feedAll_cons, List.length_cons, List.replicate_succ, List.cons.injEq] at hnone
    obtain ⟨hb, hl⟩ := hnone
    have hs : step s = .next ({ s with calls := rxCalls l ++ rest, P := (feed s.P b).1 }.report .done []) :=
      (step_of_call hc' (decode_rxCall _ _)).trans
        (exec_rxStep_of_none (s := { s with calls := rxCalls l ++ rest }) hw hb)
    have hrest := ih (s := { s with calls := rxCalls l ++ rest, P := (feed s.P b).1 }.report .done []) hw rfl hl
    refine (run_succ_of_next hs).trans (hrest.trans ?_)
    simp [feedAll_cons, rxOutput, List.replicate_succ]

/-- The byte that completes a frame: the node is offered it. -/
theorem step_rxCall_of_some {b : Byte} {f : Frame} {rest : List (List Byte)} (hw : s.cfg.wf = true)
    (hc : s.calls = encode (.rxStep .between b) :: rest) (hf : (feed s.P b).2 = some f) :
    step s = .next
      ({ s with P := (feed s.P b).1
                calls := rest
                myAddress := (receive s.cfg (s.ctx s.myAddress) f).1 }.report .done
        (receive s.cfg (s.ctx s.myAddress) f).2) := by
  rw [step_of_call hc (decode_rxCall _ _), exec_rxStep (s := { s with calls := rest }) hw, rxStep_of_some _ _ hf]
  rfl

/-- The first 27 bytes of an encoded frame, and the state of the parser before the last. -/
theorem feedAll_encodeFrame_but_last {P : ParserState} (h : P.st = .waitStart) (f : Frame) :
    ∃ l, (encodeFrame f).toList = l ++ [0x55] ∧ l.length = 27 ∧ (feedAll P l).2 = List.replicate 27 none ∧
      feed (feedAll P l).1 0x55 = (toWaitStart (feedAll P l).1, some (clearReserved f)) := by
  obtain ⟨hst, -, hcrc, hout, hbuf⟩ := feedAll_body_low_high h (bodyOf (clearReserved f))
    (crcLow (crc16 (bodyOf (clearReserved f)).toList)) (crcHigh (crc16 (bodyOf (clearReserved f)).toList))
  rw [joinCrc_low_high] at hcrc
  have hlast := feed_endByte hst (by rw [hbuf, hcrc])
  rw [hbuf, unpack_bodyOf] at hlast
  exact ⟨_, rfl, by simp, hout, hlast⟩

/-- What a node does with a frame it is offered: the address it then has, and the events. -/
theorem receive_eq {cfg : Cfg} (hw : cfg.wf = true) (ctx : Ctx) (f : Frame) :
    receive cfg ctx f =
      (if (f.address = ctx.myAddress ∨ f.address = 0xFE) ∧ f.deviceCommand = cfg.cmdSetAddress ∧
          f.parameters.get 0 ≠ 0x00 ∧ f.parameters.get 0 ≠ 0xFF then f.parameters.get 0 else ctx.myAddress,
       if f.address = ctx.myAddress ∨ f.address = 0xFE then route cfg ctx f else []) := by
  by_cases hme : f.address = ctx.myAddress ∨ f.address = 0xFE
  · rw [receive_of_forMe hme, adopt_route hw, if_pos hme]
    simp only [hme, true_and]
  · rw [receive_of_notForMe hme, if_neg hme, if_neg fun h => hme h.1]

/-- Settles O53: 27 bytes without an event (`run_rxCalls_of_none`), and the frame offered to the node at the last. -/
theorem nodeReceivesAnEncodedFrame : Obligations.NodeReceivesAnEncodedFrame := by
  intro s f rest hw h hc
  obtain ⟨l, hl, hlen, hnone, hfeed⟩ := feedAll_encodeFrame_but_last h f
  have hc' : s.calls = rxCalls l ++ (encode (.rxStep .between 0x55) :: rest) := by rw [hc, hl]; simp [rxCalls]
  have hrun := run_rxCalls_of_none hw hc' (by rw [hnone, hlen])
  rw [hlen] at hrun
  have hlast := step_rxCall_of_some
    (s := { s with P := (feedAll s.P l).1
                   calls := encode (.rxStep .between 0x55) :: rest
                   trace := s.trace ++ List.replicate 27 (rxOutput []) }) hw rfl (congrArg Prod.snd hfeed)
  refine ⟨_, (run_add_of_next (n := 1) hrun).trans (run_succ_of_next hlast), ?_, rfl, ?_, ?_⟩
  · exact congrArg (fun r => r.1.st) hfeed
  · rw [receive_eq hw]; rfl
  · rw [receive_eq hw]; rfl

end Sys2Proof.Machine
end

section
/-! Proofs about single steps and calls (log entries 1, 2, 3, 13): which call a step runs, and where a fetched word's
instruction runs. -/

namespace Sys2Proof.Machine

variable {s : State} {i : Instr}

/-- Settles O3: the words are fixed, and the decoder is run on each of them. -/
theorem tableWordsDecodeToTheirRows : Obligations.TableWordsDecodeToTheirRows := by
  unfold Obligations.TableWordsDecodeToTheirRows
  decide

/-- Settles O4: one lemma about a step for each of the three cases. -/
theorem stepRunsTheOldestPendingCall : Obligations.StepRunsTheOldestPendingCall :=
  fun _ => ⟨step_of_no_call, fun _ _ hc => ⟨fun _ hd => step_of_call hc hd, fun _ hd => step_of_rejected hc hd⟩⟩

theorem decodeTableWord_eq_some {nbits w : Nat} :
    decodeTableWord nbits w = some i ↔ decode (tableBytes nbits w) = .ok i := by
  unfold decodeTableWord
  cases decode (tableBytes nbits w) <;> simp

/-- Log entry 13: a well-formed FEED row is selected in the parser state made for it. -/
theorem selected_parserFor (hrow : feedRow i = true) (hwf : WellFormed i = true) (s : State) :
    selected i { s with P := parserFor i s.P } = true := by
  rw [wellFormed_iff] at hwf
  cases i with
  | feedWaitStartStart | feedReadFrame | feedReadCrcLow | feedReadCrcHigh => rfl
  | feedWaitStartSkip b | feedWaitEndBadEnd b =>
    simpa [problemOf, selected, parserFor] using hwf
  | feedWaitEndAccept => simp [selected, parserFor, crcMatches]
  | feedWaitEndBadCrc => simp [selected, parserFor, crcMatches]
  | _ => cases hrow

/-- Settles O5: the word stands as the oldest call on a state that `positionFor` changed in `P` at most. -/
theorem fetchWordRunsOnTheNextStep : Obligations.FetchWordRunsOnTheNextStep := by
  intro s nbits w i h
  have hdecode := decodeTableWord_eq_some.mp h
  have hstep : step (s.withFetchWord nbits w) = exec i (positionFor i s) := by
    rw [State.withFetchWord, h]
    exact step_of_call rfl hdecode
  rw [hstep, positionFor]
  by_cases hsel : selected i s = true
  · exact ⟨s.P, by rw [if_pos hsel], fun _ => rfl, fun _ => hsel⟩
  · exact ⟨parserFor i s.P, by rw [if_neg hsel], fun h => absurd h hsel,
      fun hrow => selected_parserFor hrow (decode_eq_ok.mp hdecode).2 s⟩

/-- Settles O19: each moment other than `between` carries its own refusal, before the `Cfg` is looked at. -/
theorem feedingOutsideItsMomentIsRefused : Obligations.FeedingOutsideItsMomentIsRefused :=
  fun _ _ => ⟨rfl, rfl, rfl, rfl, rfl, rfl⟩

/-- Settles O34: the two outcomes of `loadAddress` are the two cases of `bootAddress`. -/
theorem resetReturnsToWaitStartWithTheLoadedAddress : Obligations.ResetReturnsToWaitStartWithTheLoadedAddress := by
  intro s load
  refine ⟨(s.hostReset load).report .done [], rfl, rfl, ?_, ?_, rfl, rfl, rfl, rfl, rfl⟩
  · rintro v rfl; rfl
  · rintro rfl; rfl

/-- Settles O36: in WaitStart no parser field is constrained, and no event was reported. -/
theorem resetStateIsInOrder : Obligations.ResetStateIsInOrder :=
  ⟨rfl, rfl, rfl, rfl, by decide, ParserState.inv_of_waitStart rfl, fun _ ho => absurd ho List.not_mem_nil⟩

end Sys2Proof.Machine
end

section
/-! Proofs about the codec's operations and the parser's other rows (41_codec.md R50, R52, 42_parser.md R57, R61). -/

namespace Sys2Proof.Machine

theorem inRange_widen (f : Frame) : f.widen.inRange = true := by
  rw [inRange_iff]
  refine ⟨f.address.isLt, f.serverCommand.isLt, f.deviceCommand.isLt, fun p hp => ?_, f.reserved.isLt⟩
  obtain ⟨b, -, rfl⟩ := List.mem_map.mp hp
  exact b.isLt

@[simp] theorem narrow_widen (f : Frame) : f.widen.narrow = f := by
  obtain ⟨a, s, d, ps, r⟩ := f
  have hps : (⟨(ps.toList.map BitVec.toNat).map (BitVec.ofNat 8), by simp⟩ : Bytes 20) = ps := by
    ext1
    simp [Function.comp_def]
  simp only [WideFrame.narrow, Frame.widen, BitVec.ofNat_toNat, BitVec.setWidth_eq, hps]

/-- Settles O10: a frame's own values are in range, and ENCODE narrows them back to the frame. -/
theorem encodeWritesTheWireFrame : Obligations.EncodeWritesTheWireFrame := by
  intro s f
  refine ⟨encodeFrame f, ?_, rfl⟩
  rw [exec_encodeFrame_of_inRange (inRange_widen f), narrow_widen]

theorem get_slice {α : Type} {n : Nat} (a : Arr α n) {lo len k : Nat} (h : lo + len ≤ n) (hk : k < len) :
    (a.slice lo len h).get k hk = a.get (k + lo) (by omega) := by
  simp [Arr.get, Nat.add_comm k]

/-- Settles O11: the parameters are the slice that starts at offset 3. -/
theorem unpackReadsEveryBodyOffset : Obligations.UnpackReadsEveryBodyOffset :=
  fun _ b => ⟨unpack b, rfl, rfl, rfl, rfl, fun _ hk => get_slice b (by decide) hk, rfl⟩

/-- Settles O13: the two rows of WaitStart. -/
theorem waitStartRowsOpenAFrameOrSkip : Obligations.WaitStartRowsOpenAFrameOrSkip :=
  fun s h => ⟨⟨beginFrame s.P, exec_feedWaitStartStart h, rfl, rfl, rfl, rfl⟩, fun _ hb => exec_feedWaitStartSkip h hb⟩

/-- Settles O16: the row leaves `toWaitStart s.P`, which keeps the other fields. -/
theorem waitEndAcceptEmitsTheBufferedFrame : Obligations.WaitEndAcceptEmitsTheBufferedFrame :=
  fun s h hc => ⟨toWaitStart s.P, exec_feedWaitEndAccept h hc, rfl, rfl, rfl, rfl⟩

/-- Settles O23: `isForMe_iff` says what the three disjuncts of the rule come to. -/
theorem isForMeMatchesOwnAddressOrBroadcast : Obligations.IsForMeMatchesOwnAddressOrBroadcast := by
  intro s a m
  have hdecide : isForMe a m = decide (a = m ∨ a = 0xFE) := by
    rw [Bool.eq_iff_iff, isForMe_iff, decide_eq_true_eq]
  rw [← hdecide]
  rfl

end Sys2Proof.Machine
end

section
/-! Proofs about the identity frame and the router's recognized commands (44_router.md R75 to R84). -/

namespace Sys2Proof.Machine

variable {s : State} {f : Frame}

/-- A router row whose condition holds completes under a well-formed `Cfg`. -/
theorem withCfg_whenSelected {i : Instr} {n : String} {k : Step} (hw : s.cfg.wf = true) (hsel : selected i s = true) :
    withCfg s (whenSelected i n s k) = k := by
  rw [withCfg_of_wf hw, whenSelected_of_selected hsel]

/-- Settles O24: each row's condition is its code, and it reports its one event. -/
theorem pingAndResetRowsEmitTheirEvent : Obligations.PingAndResetRowsEmitTheirEvent :=
  fun _ _ _ hw => ⟨fun hd => withCfg_whenSelected hw (beq_iff_eq.mpr hd),
    fun hd => withCfg_whenSelected hw (beq_iff_eq.mpr hd)⟩

/-- Settles O27: each row's condition is its code, and it reports no event. -/
theorem helloAndAckRowsEmitNothing : Obligations.HelloAndAckRowsEmitNothing :=
  fun _ _ _ hw => ⟨fun hd => withCfg_whenSelected hw (beq_iff_eq.mpr hd),
    fun hd => withCfg_whenSelected hw (beq_iff_eq.mpr hd)⟩

/-- 30_encoding.md R37: an assigned sender leaves its hardware identifier out. -/
theorem helloParameters_of_assigned {ctx : Ctx} (h : ctx.myAddress ≠ 0x00) :
    (helloParameters ctx).toList = [ctx.myAddress, ctx.deviceType] ++ List.replicate 18 0x00 := by
  have h' : ¬ ctx.myAddress = addrUnassigned := h
  simp only [helloParameters, if_neg h']
  rfl

/-- Settles O25: the announcement is the HELLO of a sender that now has an address. -/
theorem setAddressRowAdoptsPersistsAnnounces : Obligations.SetAddressRowAdoptsPersistsAnnounces := by
  intro s m f hw hd h0 hFF
  have hrej := (rejectedAddress_eq_false _).mpr ⟨h0, hFF⟩
  refine ⟨makeHello s.cfg (s.ctx (f.parameters.get 0)), ?_, rfl, rfl, rfl, rfl, helloParameters_of_assigned h0⟩
  exact withCfg_whenSelected hw (by simp [selected, hd, hrej])

/-- 30_encoding.md R37: slots 2 to 7 hold the identifier of an unassigned sender. -/
theorem get_helloParameters_identifier (ctx : Ctx) {k : Nat} (hk : k < 6) :
    (helloParameters ctx).get (k + 2) (by omega) = if ctx.myAddress = 0x00 then ctx.hwId.get k hk else 0x00 := by
  by_cases h : ctx.myAddress = 0#8 <;>
    simp [helloParameters, addrUnassigned, Arr.get, h, hk, -List.reduceReplicate]

/-- 30_encoding.md R37: slots 8 to 19 are zero. -/
theorem get_helloParameters_zero (ctx : Ctx) {k : Nat} (hk : k < 12) :
    (helloParameters ctx).get (k + 8) (by omega) = 0x00 := by
  simp [helloParameters, Arr.get, -List.reduceReplicate]

/-- MAKE_HELLO completes under a well-formed `Cfg`. -/
theorem exec_makeHello (hw : s.cfg.wf = true) (m : Byte) :
    exec (.makeHello m) s = .next (s.report (.frame (makeHello s.cfg (s.ctx m))) []) := withCfg_of_wf hw

/-- Settles O30: the identifier is slots 2 to 7 of the parameters, and zeros follow. -/
theorem makeHelloCarriesTheIdentity : Obligations.MakeHelloCarriesTheIdentity := by
  intro s m hw
  exact ⟨makeHello s.cfg (s.ctx m), exec_makeHello hw m, rfl, rfl, rfl, rfl, rfl, rfl,
    fun _ hk => get_helloParameters_identifier _ hk, fun _ hk => get_helloParameters_zero _ hk⟩

/-- Settles O54: a line sends one wire frame and only reports it. -/
theorem sendAndHelloLinesTransmitOneEncodedFrame : Obligations.SendAndHelloLinesTransmitOneEncodedFrame := by
  intro s
  refine ⟨fun w hr => if_pos hr, fun w hr => if_neg (by simp [hr]), fun hw => ?_⟩
  exact ⟨makeHello s.cfg (s.ctx s.myAddress), exec_makeHello hw _, withCfg_of_wf hw⟩

end Sys2Proof.Machine
end
